-- ==== Sys2Proof/Word.lean ====
section
/-! DEFINITION. The word types of the block (00_scope.md R12): octets, 16-bit accumulators, and nothing else. -/

namespace Sys2Proof

/-- An octet, `u8` (R12). -/
abbrev Byte := BitVec 8

/-- A 16-bit value, `u16` (R12). -/
abbrev Half := BitVec 16

end Sys2Proof
end

