-- ==== Sys2Proof/Syntax.lean ====
section
/-! DEFINITION. The instructions: one constructor per row of spec/opcode_table.json, and the words that select them. -/

namespace Sys2Proof

/-- One row of the opcode table each. Bits the spec calls ignored (`b` of SYS.RESET, `b[7:2]` of DEC.FRAME, R120) are no
operand. The byte-sequence operand `OPB` and the inputs `baud` and `fmt_sel` do not travel in the word (R121). -/
inductive Instr where
  -- CMD: the operations of 30_encoding.md R120
  /-- SYS.RESET, R297. -/
  | sysReset
  /-- CRC.INIT, R140. -/
  | crcInit
  /-- CRC.UPD b, R141. -/
  | crcUpd (b : Byte)
  /-- LRC.INIT, R144. -/
  | lrcInit
  /-- LRC.UPD b, R145. -/
  | lrcUpd (b : Byte)
  /-- RTU.RX b, R161. -/
  | rtuRx (b : Byte)
  /-- RTU.TICK, R170. -/
  | rtuTick
  /-- RTU.SEND, R173. -/
  | rtuSend
  /-- ASC.RX c, R191. -/
  | ascRx (c : Byte)
  /-- ASC.SEND, R201. -/
  | ascSend
  /-- DEC.FRAME tag, R290: the tag kind is `b[1:0]`. -/
  | decFrame (tag : BitVec 2)
  /-- The default row of the CMD format: a reserved `op`, R122. -/
  | cmdReserved (op : BitVec 5) (b : Byte)
  -- CSEL: the codec selects of 30_encoding.md R124
  /-- CSEL.NONE: the direction is absent, R221. -/
  | cselNone
  /-- DEC.AQ, R260. -/
  | decAq
  /-- DEC.BOOLS, R262. -/
  | decBools
  /-- DEC.REGS, R266. -/
  | decRegs
  /-- DEC.AB, R269. -/
  | decAb
  /-- DEC.AR, R271. -/
  | decAr
  /-- DEC.AQB, R273. -/
  | decAqb
  /-- DEC.AQR, R275. -/
  | decAqr
  -- FC: the function codes of 30_encoding.md R125
  /-- Function code 0x01, R222. -/
  | fc01
  /-- Function code 0x02, R223. -/
  | fc02
  /-- Function code 0x03, R224. -/
  | fc03
  /-- Function code 0x04, R225. -/
  | fc04
  /-- Function code 0x05, R226. -/
  | fc05
  /-- Function code 0x06, R227. -/
  | fc06
  /-- Function code 0x07, R228. -/
  | fc07
  /-- Function code 0x08, R229. -/
  | fc08
  /-- Function code 0x0F, R230. -/
  | fc0F
  /-- Function code 0x10, R231. -/
  | fc10
  /-- Function code 0x11, R232. -/
  | fc11
  /-- Function code 0x81, R233. -/
  | fc81
  /-- Function code 0x82, R234. -/
  | fc82
  /-- Function code 0x83, R235. -/
  | fc83
  /-- Function code 0x84, R236. -/
  | fc84
  /-- Function code 0x85, R237. -/
  | fc85
  /-- Function code 0x86, R238. -/
  | fc86
  /-- Function code 0x87, R239. -/
  | fc87
  /-- Function code 0x88, R240. -/
  | fc88
  /-- Function code 0x8F, R241. -/
  | fc8F
  /-- Function code 0x90, R242. -/
  | fc90
  /-- Function code 0x91, R243. -/
  | fc91
  /-- The default row of the FC format: a function code with no registry entry, R244. -/
  | fcUnknown (fc : Byte)
  deriving DecidableEq, Repr

/-- What selects an instruction, one form per format of the opcode table: a 13-bit command word (R119), a 3-bit codec
select (R124), an 8-bit function code (R123). -/
inductive OpWord where
  | cmd (w : BitVec 13)
  | csel (w : BitVec 3)
  | fc (w : Byte)
  deriving DecidableEq, Repr

end Sys2Proof
end

