-- ==== Sys2Proof/WellFormed.lean ====
section
/-! DEFINITION. Which terms of `Instr` are instructions: the two default rows stand for unassigned encodings only, and the
tag kind 3 of DEC.FRAME is refused (30_encoding.md R122). -/

namespace Sys2Proof

/-- The assigned `op` numbers of 30_encoding.md R120. -/
def assignedOps : List (BitVec 5) :=
  [0x00#5, 0x01#5, 0x02#5, 0x03#5, 0x04#5, 0x08#5, 0x09#5, 0x0A#5, 0x10#5, 0x11#5, 0x18#5]

/-- The 22 populated function codes of 43_dispatch.md R220. -/
def populatedCodes : List Byte :=
  [0x01#8, 0x02#8, 0x03#8, 0x04#8, 0x05#8, 0x06#8, 0x07#8, 0x08#8, 0x0F#8, 0x10#8, 0x11#8,
   0x81#8, 0x82#8, 0x83#8, 0x84#8, 0x85#8, 0x86#8, 0x87#8, 0x88#8, 0x8F#8, 0x90#8, 0x91#8]

/-- A command word whose fields the default row may hold, a function code that has no entry, a tag kind that exists. -/
def Instr.wellFormed : Instr → Bool
  | .cmdReserved op _ => !assignedOps.contains op
  | .fcUnknown fc => !populatedCodes.contains fc
  | .decFrame tag => tag != 3#2
  | .sysReset | .crcInit | .crcUpd _ | .lrcInit | .lrcUpd _ | .rtuRx _ | .rtuTick | .rtuSend | .ascRx _ | .ascSend => true
  | .cselNone | .decAq | .decBools | .decRegs | .decAb | .decAr | .decAqb | .decAqr => true
  | .fc01 | .fc02 | .fc03 | .fc04 | .fc05 | .fc06 | .fc07 | .fc08 | .fc0F | .fc10 | .fc11 => true
  | .fc81 | .fc82 | .fc83 | .fc84 | .fc85 | .fc86 | .fc87 | .fc88 | .fc8F | .fc90 | .fc91 => true

end Sys2Proof
end

