-- ==== Sys2Proof/Decode.lean ====
section
/-! DEFINITION. Decoding and encoding of the three word formats (30_encoding.md R119, R120, R123 to R125), and the same on
bytes, where words that the formats do not have are rejected by name. -/

namespace Sys2Proof

/-- `cmd[12:8]` (R119). -/
def cmdOp (w : BitVec 13) : BitVec 5 := w.extractLsb' 8 5

/-- `cmd[7:0]` (R119). -/
def cmdByte (w : BitVec 13) : Byte := w.extractLsb' 0 8

/-- The tag kind of DEC.FRAME, `b[1:0]` (R120, R290). -/
def byteTag (b : Byte) : BitVec 2 := b.extractLsb' 0 2

/-- The operation of a command word (R120); every other `op` is reserved (R122). -/
def decodeCmd (w : BitVec 13) : Instr :=
  match (cmdOp w).toNat with
  | 0x00 => .sysReset
  | 0x01 => .crcInit
  | 0x02 => .crcUpd (cmdByte w)
  | 0x03 => .lrcInit
  | 0x04 => .lrcUpd (cmdByte w)
  | 0x08 => .rtuRx (cmdByte w)
  | 0x09 => .rtuTick
  | 0x0A => .rtuSend
  | 0x10 => .ascRx (cmdByte w)
  | 0x11 => .ascSend
  | 0x18 => .decFrame (byteTag (cmdByte w))
  | _ => .cmdReserved (cmdOp w) (cmdByte w)

/-- The codec of a select (R124). All eight values are assigned. -/
def decodeCsel (w : BitVec 3) : Instr :=
  match w.toNat with
  | 0 => .cselNone
  | 1 => .decAq
  | 2 => .decBools
  | 3 => .decRegs
  | 4 => .decAb
  | 5 => .decAr
  | 6 => .decAqb
  | _ => .decAqr

/-- The registry row of a function code (R125); every other code has none (R126, R244). -/
def decodeFc (w : Byte) : Instr :=
  match w.toNat with
  | 0x01 => .fc01
  | 0x02 => .fc02
  | 0x03 => .fc03
  | 0x04 => .fc04
  | 0x05 => .fc05
  | 0x06 => .fc06
  | 0x07 => .fc07
  | 0x08 => .fc08
  | 0x0F => .fc0F
  | 0x10 => .fc10
  | 0x11 => .fc11
  | 0x81 => .fc81
  | 0x82 => .fc82
  | 0x83 => .fc83
  | 0x84 => .fc84
  | 0x85 => .fc85
  | 0x86 => .fc86
  | 0x87 => .fc87
  | 0x88 => .fc88
  | 0x8F => .fc8F
  | 0x90 => .fc90
  | 0x91 => .fc91
  | _ => .fcUnknown w

/-- The decoder. It is total: every word of a format is some row of the table. -/
def decode : OpWord → Instr
  | .cmd w => decodeCmd w
  | .csel w => decodeCsel w
  | .fc w => decodeFc w

/-- Which of the three formats a word is presented in (log 1). -/
inductive Port where
  | cmd
  | csel
  | fc
  deriving DecidableEq, Repr

/-- Why bytes are no word of a format. -/
inductive DecodeError where
  /-- Fewer bytes than the format's word takes. -/
  | tooShort
  /-- More bytes than the format's word takes. -/
  | tooLong
  /-- A command word has 13 bits (R119); bits 15 to 13 of its two bytes are not 0. -/
  | cmdHighBits
  /-- A codec select has 3 bits (R124); bits 7 to 3 of its byte are not 0. -/
  | cselHighBits
  deriving DecidableEq, Repr

/-- Reads a format's word from bytes. DESIGN CHOICE (log 11): a command word lies in two bytes, the low one first. -/
def readWord : Port → List Byte → Except DecodeError OpWord
  | .cmd, [lo, hi] =>
    if hi.toNat < 32 then .ok (.cmd ((hi ++ lo).setWidth 13)) else .error .cmdHighBits
  | .csel, [x] => if x.toNat < 8 then .ok (.csel (x.setWidth 3)) else .error .cselHighBits
  | .fc, [x] => .ok (.fc x)
  | .cmd, _ :: _ :: _ :: _ => .error .tooLong
  | .csel, _ :: _ :: _ => .error .tooLong
  | .fc, _ :: _ :: _ => .error .tooLong
  | .cmd, [] => .error .tooShort
  | .cmd, [_] => .error .tooShort
  | .csel, [] => .error .tooShort
  | .fc, [] => .error .tooShort

/-- The decoder on bytes: total, rejecting by name. -/
def decodeBytes (p : Port) (bs : List Byte) : Except DecodeError Instr :=
  (readWord p bs).map decode

/-- The word of an instruction, from the tables of R120, R124 and R125. Ignored bits are sent as 0 (log 20). -/
def encode : Instr → OpWord
  | .sysReset => .cmd (0x00#5 ++ 0x00#8)
  | .crcInit => .cmd (0x01#5 ++ 0x00#8)
  | .crcUpd b => .cmd (0x02#5 ++ b)
  | .lrcInit => .cmd (0x03#5 ++ 0x00#8)
  | .lrcUpd b => .cmd (0x04#5 ++ b)
  | .rtuRx b => .cmd (0x08#5 ++ b)
  | .rtuTick => .cmd (0x09#5 ++ 0x00#8)
  | .rtuSend => .cmd (0x0A#5 ++ 0x00#8)
  | .ascRx b => .cmd (0x10#5 ++ b)
  | .ascSend => .cmd (0x11#5 ++ 0x00#8)
  | .decFrame tag => .cmd (0x18#5 ++ (0#6 ++ tag))
  | .cmdReserved op b => .cmd (op ++ b)
  | .cselNone => .csel 0#3
  | .decAq => .csel 1#3
  | .decBools => .csel 2#3
  | .decRegs => .csel 3#3
  | .decAb => .csel 4#3
  | .decAr => .csel 5#3
  | .decAqb => .csel 6#3
  | .decAqr => .csel 7#3
  | .fc01 => .fc 0x01#8
  | .fc02 => .fc 0x02#8
  | .fc03 => .fc 0x03#8
  | .fc04 => .fc 0x04#8
  | .fc05 => .fc 0x05#8
  | .fc06 => .fc 0x06#8
  | .fc07 => .fc 0x07#8
  | .fc08 => .fc 0x08#8
  | .fc0F => .fc 0x0F#8
  | .fc10 => .fc 0x10#8
  | .fc11 => .fc 0x11#8
  | .fc81 => .fc 0x81#8
  | .fc82 => .fc 0x82#8
  | .fc83 => .fc 0x83#8
  | .fc84 => .fc 0x84#8
  | .fc85 => .fc 0x85#8
  | .fc86 => .fc 0x86#8
  | .fc87 => .fc 0x87#8
  | .fc88 => .fc 0x88#8
  | .fc8F => .fc 0x8F#8
  | .fc90 => .fc 0x90#8
  | .fc91 => .fc 0x91#8
  | .fcUnknown w => .fc w

/-- The format of a word. -/
def OpWord.port : OpWord → Port
  | .cmd _ => .cmd
  | .csel _ => .csel
  | .fc _ => .fc

/-- The bytes of a word, in the layout `readWord` reads (log 11). -/
def OpWord.bytes : OpWord → List Byte
  | .cmd w => [cmdByte w, (cmdOp w).setWidth 8]
  | .csel w => [w.setWidth 8]
  | .fc w => [w]

/-- The format of a row of `nbits` bits. DESIGN CHOICE (log 12): the opcode table's own widths decide, 3 for a codec select,
8 for a function code, 13 (16 in whole bytes) for a command word. -/
def tablePort (nbits : Nat) : Port :=
  if nbits < 8 then .csel else if nbits = 8 then .fc else .cmd

/-- The bytes of a word numbered as the opcode table numbers it, bit 0 the least significant bit of the first byte. -/
def tableBytes (nbits w : Nat) : List Byte :=
  match tablePort nbits with
  | .cmd => [BitVec.ofNat 8 w, BitVec.ofNat 8 (w / 256)]
  | .csel => [BitVec.ofNat 8 w]
  | .fc => [BitVec.ofNat 8 w]

/-- The word of the opcode table's bits, if they are one. -/
def tableWord (nbits w : Nat) : Option OpWord :=
  if w < 2 ^ nbits then (readWord (tablePort nbits) (tableBytes nbits w)).toOption else none

/-- The instruction the decoder reads from an instruction whose bits are `w`. -/
def decodeTableWord (nbits w : Nat) : Option Instr :=
  (tableWord nbits w).map decode

end Sys2Proof
end

