-- ==== Sys2Proof/Config.lean ====
section
/-! DEFINITION. The parameters of 00_scope.md R10: the fixed ones as constants, the others as a named configuration (R11). -/

namespace Sys2Proof

/-- `CRC_SEED`, fixed (R10). -/
def crcSeed : Half := 0xFFFF#16

/-- `CRC_POLY`, the reflected polynomial, fixed (R10). -/
def crcPoly : Half := 0xA001#16

/-- `LRC_SEED`, fixed (R10). -/
def lrcSeed : Byte := 0x00#8

/-- `TMO_BASE`, milliseconds, fixed (R10). -/
def tmoBase : Nat := 1

/-- `TMO_NUM`, fixed (R10). -/
def tmoNum : Nat := 50000

/-- The parameters that change observable behaviour and that a model carries as named configuration (R10, R11).
DESIGN CHOICE (log 7): an instance holds its parameters in `State.cfg`, which no operation writes. -/
structure Config where
  /-- `WIN_CEILING`, entries. -/
  winCeiling : Nat
  /-- `EVICT_BATCH`, entries. -/
  evictBatch : Nat
  /-- `MIN_MATCH_LEN`, bytes. -/
  minMatchLen : Nat
  /-- `ASC_CAP`: none when unset (42_ascii_seg.md R198, log 8). -/
  ascCap : Option Nat
  /-- `SEND_MAX`: none when unset (R173, R201, log 9). -/
  sendMax : Option Nat
  deriving DecidableEq, Repr

/-- The values of this hardware (R10): 2300, 200, 4, and both open bounds unset. -/
def Config.default : Config :=
  { winCeiling := 2300, evictBatch := 200, minMatchLen := 4, ascCap := none, sendMax := none }

/-- The constraints a model may assume (R11), and that `ASC_CAP`, if set, is at least 1 (R198). -/
def Config.legal (c : Config) : Bool :=
  decide (1 ≤ c.evictBatch) && decide (c.evictBatch ≤ c.winCeiling) && decide (2 ≤ c.minMatchLen) &&
    (match c.ascCap with
     | none => true
     | some m => decide (1 ≤ m))

end Sys2Proof
end

