-- ==== Sys2Proof/Machine/State.lean ====
section
/-! DEFINITION. What the machine holds and what an operation returns, as plain data; the state after reset; why a step can
stop. The state of the block is the table of 10_state.md R30. -/

namespace Sys2Proof.Machine

/-! Reports and decoded frames (30_encoding.md R117, 45_frame_decoder.md R291). -/

/-- The kind of a report (R117). The code 3 is reserved and never produced: there is no such constructor. -/
inductive ReportKind where
  | valid
  | errored
  | sent
  deriving DecidableEq, Repr

/-- A report: a kind and a copy of its bytes (R117, R75, R306). -/
structure Report where
  kind : ReportKind
  bytes : List Byte
  deriving DecidableEq, Repr

/-- The kinds of a codec error (60_exceptions.md R305). Codes 0 and 7 are never produced. -/
inductive ErrKind where
  | lenNe
  | lenDecl
  | oddCount
  | widthDiv
  | boolVal
  | tooShort
  deriving DecidableEq, Repr

/-- The error record `err` of R305. -/
structure DecErr where
  kind : ErrKind
  expected : Nat
  actual : Nat
  deriving DecidableEq, Repr

/-- The eight readings of a register field, in the bit order of `fmt_sel` (44_field_codecs.md R266). -/
inductive Fmt where
  | u16
  | i16
  | u32
  | i32
  | f32
  | u64
  | i64
  | f64
  deriving DecidableEq, Repr

/-- One element under one reading (R267): a number, or for a float reading the bits, passed through (R268). -/
inductive Element where
  | unsigned (v : Nat)
  | signed (v : Int)
  | float32 (bits : BitVec 32)
  | float64 (bits : BitVec 64)
  deriving DecidableEq, Repr

/-- The array of one selected reading (R266). -/
structure Reading where
  fmt : Fmt
  elems : List Element
  deriving DecidableEq, Repr

/-- The record a codec returns, one form per data-field format (R104 to R110). -/
inductive Value where
  | aq (address quantity : Half)
  | bools (n : Byte) (booleans : List Bool)
  | regs (n : Byte) (values : List Reading)
  | ab (address : Half) (value : Bool)
  | ar (address value : Half)
  | aqb (address quantity : Half) (n : Byte) (booleans : List Bool)
  | aqr (address quantity : Half) (n : Byte) (values : List Reading)
  deriving DecidableEq, Repr

/-- Exactly one of `ok` and `err` (R17, R277). -/
inductive CodecResult where
  | ok (v : Value)
  | err (e : DecErr)
  deriving DecidableEq, Repr

/-- The fields of a decoded frame that are defined when `frame_ok = 1` (R291). -/
structure FrameBody where
  slaveAddr : Byte
  funcCode : Byte
  fcErr : Bool
  descIdx : BitVec 7
  fcKnown : Bool
  /-- The request-direction interpretation. -/
  master : Option CodecResult
  /-- The response-direction interpretation. -/
  slave : Option CodecResult
  deriving DecidableEq, Repr

/-- The decoded-frame record (R291). `frame_ok` is whether there is a body; without one no field but the tag holds a
value (R292). -/
structure DecodedFrame where
  tag : ReportKind
  body : Option FrameBody
  deriving DecidableEq, Repr

/-- What the sink receives for one report: the triple (kind, bytes, decoded frame) (R118). -/
structure Delivery where
  report : Report
  frame : DecodedFrame
  deriving DecidableEq, Repr

/-- What the registry and the dispatch multiplexer give for a function code (43_dispatch.md R221, R245). -/
structure FcResult where
  known : Bool
  fcErr : Bool
  descIdx : BitVec 7
  request : Option CodecResult
  response : Option CodecResult
  deriving DecidableEq, Repr

/-- The result of an operation (30_encoding.md R120). -/
inductive OpResult where
  /-- No result. -/
  | nothing
  /-- CRC.UPD: the accumulator. -/
  | crc (v : Half)
  /-- LRC.UPD: the accumulator. -/
  | lrc (v : Byte)
  /-- RTU.SEND, ASC.SEND: the byte sequence. -/
  | bytes (bs : List Byte)
  /-- RTU.RX, RTU.TICK, ASC.RX: the report list, each report with its decoded frame. -/
  | reports (ds : List Delivery)
  /-- DEC.FRAME: the decoded frame. -/
  | frame (f : DecodedFrame)
  /-- A codec select: the codec's result, absent for the select "none". -/
  | codec (r : Option CodecResult)
  /-- A function code: its dispatch. -/
  | dispatched (r : FcResult)
  deriving DecidableEq, Repr

/-! The state (10_state.md R30). -/

/-- U1 and U2: the standalone accumulators `CK.crc` and `CK.lrc`. -/
structure Ck where
  crc : Half
  lrc : Byte
  deriving DecidableEq, Repr

/-- One entry of the RTU window: `RTU.win[k].byte` and `RTU.win[k].crc` (R36). -/
structure Tracked where
  byte : Byte
  crc : Half
  deriving DecidableEq, Repr

/-- U3. The window holds the live entries, oldest first, so `RTU.n` is its length and an entry at or above `RTU.n` does
not exist (R39). The timer is `some c` when `RTU.tmr_armed = 1` and `RTU.tmr_cnt = c`, and `none` when it is not armed: the
count then has no value (R39, U9 of 93_implementation_defined.md, log 6). -/
structure Rtu where
  win : List Tracked
  timer : Option (BitVec 16)
  deriving DecidableEq, Repr

/-- U4. `ASC.alen` is the length of `acc` (R41). `pend` is `some p` when `ASC.pend_v = 1` and `ASC.pend = p` (R43). -/
structure Asc where
  acc : List Byte
  lrc : Byte
  pend : Option Byte
  deriving DecidableEq, Repr

/-- What the environment drives beside the block: the inputs CI0 and CI1 (R44) and the operand `OPB` (20_memory.md R73).
They are no state of the block (R20); an operation samples them at its start (30_encoding.md R121). -/
structure Lines where
  baud : BitVec 32
  fmtSel : Byte
  opb : List Byte
  deriving DecidableEq, Repr

/-- One transaction of the interface: the word that selects the operation and the lines it samples (R119, R121). -/
structure Transaction where
  word : OpWord
  lines : Lines
  deriving DecidableEq, Repr

/-- One instance of the block (R57) and its surroundings. -/
structure State where
  /-- The instance's parameters; constant (log 7). -/
  cfg : Config
  /-- U1 and U2. -/
  ck : Ck
  /-- U3. -/
  rtu : Rtu
  /-- U4. -/
  asc : Asc
  /-- The lines as the running operation samples them (log 4). -/
  lines : Lines
  /-- The transactions the agents issue from here on, in their one total order (R89, log 2). -/
  pending : List Transaction
  /-- What the last completed operation returned (log 5). -/
  result : OpResult
  deriving DecidableEq, Repr

/-- U1 and U2 after reset (R55). -/
def Ck.reset : Ck := { crc := crcSeed, lrc := lrcSeed }

/-- U3 after reset: no live entry, timer not armed (R55). -/
def Rtu.reset : Rtu := { win := [], timer := none }

/-- U4 after reset: no decoded byte, no held character (R55). -/
def Asc.reset : Asc := { acc := [], lrc := lrcSeed, pend := none }

/-- The machine right after power-on (R55, R340). The block's own fields are the spec's. DESIGN CHOICE (logs 2, 4, 5, 7):
the default parameters, 9600 and 0x01 on the inputs, an empty operand, no transaction issued, nothing returned. -/
def State.reset : State :=
  { cfg := Config.default, ck := Ck.reset, rtu := Rtu.reset, asc := Asc.reset,
    lines := { baud := 9600#32, fmtSel := 0x01#8, opb := [] }, pending := [], result := .nothing }

/-- The faults of the block: there are none. "Nothing is fatal" (60_exceptions.md R321), no operation traps (R317), and a
model must not invent a fault state (R310). Nobody raises one; safe (log 17). -/
inductive Fault where
  deriving DecidableEq, Repr

/-- Why an operation has no successor state (R310). Every one is safe: the machine stops where the spec gives no effect. -/
inductive Refusal where
  /-- An instruction whose meaning is not modelled, by mnemonic. Raised by a refused arm of `exec` only; there is none. Safe. -/
  | notModelled (mnemonic : String)
  /-- A reserved `op` (R122). Raised by CMD.RESERVED. Safe. -/
  | reservedCommand (op : BitVec 5)
  /-- DEC.FRAME with tag kind 3 (R122). Raised by DEC.FRAME. Safe. -/
  | reservedTag
  /-- RTU.RX with `baud = 0` (R45). Raised by RTU.RX. Safe. -/
  | baudZero
  /-- A payload longer than `SEND_MAX`, where the platform sets one (R173, R201, log 9). Raised by RTU.SEND and ASC.SEND.
  Safe. -/
  | payloadTooLong
  deriving DecidableEq, Repr

/-- The outcome of a step of this machine. -/
abbrev Outcome := Host.Outcome State Fault Refusal

/-! The updates: every write of the state goes through one of these. -/

/-- Replaces U1 and U2. -/
def State.setCk (s : State) (u : Ck) : State := { s with ck := u }

/-- Replaces U3. -/
def State.setRtu (s : State) (u : Rtu) : State := { s with rtu := u }

/-- Replaces U4. -/
def State.setAsc (s : State) (u : Asc) : State := { s with asc := u }

/-- Records what the operation returns. -/
def State.setResult (s : State) (r : OpResult) : State := { s with result := r }

/-- The environment presents a transaction: the lines are driven and the rest is still to come. -/
def State.present (s : State) (l : Lines) (rest : List Transaction) : State := { s with lines := l, pending := rest }

end Sys2Proof.Machine
end

