-- ==== Sys2Proof/Machine/Operands.lean ====
section
/-! DEFINITION. Operand assembly and the numeric encodings: fields of a data field (30_encoding.md R111 to R114), hex
characters (R115), register readings (44_field_codecs.md R267), codes of kinds and errors (R117, R305), reads of one element
of a space (20_memory.md R70). -/

namespace Sys2Proof.Machine

/-- The slice `l[a..b)` (00_scope.md R13); empty when `a ≥ b`. -/
def slice {α : Type} (a b : Nat) (l : List α) : List α := (l.take b).drop a

/-- The 16-bit value of two bytes, the first the more significant (R13, R76, R111). -/
def pair (hi lo : Byte) : Half := hi ++ lo

/-- `v[7:0]` of a 16-bit value (R12). -/
def loByte (v : Half) : Byte := v.extractLsb' 0 8

/-- `v[15:8]` of a 16-bit value (R12). -/
def hiByte (v : Half) : Byte := v.extractLsb' 8 8

/-- The number of a byte sequence, the byte at the lowest index the most significant (R80, R114). -/
def bigEndian (bs : List Byte) : Nat := bs.foldl (fun acc b => acc * 256 + b.toNat) 0

/-- The eight booleans of a packed byte, bit 7 first (R78, R105). -/
def byteBools (y : Byte) : List Bool :=
  [y.getLsbD 7, y.getLsbD 6, y.getLsbD 5, y.getLsbD 4, y.getLsbD 3, y.getLsbD 2, y.getLsbD 1, y.getLsbD 0]

/-- The boolean sequence of packed bytes (R113). -/
def unpackBools (bs : List Byte) : List Bool := bs.flatMap byteBools

/-- The boolean of format AB (R112): none is an illegal value (R128). -/
def coilValue (bval : Half) : Option Bool :=
  if bval = 0x0000#16 then some false
  else if bval = 0xFF00#16 then some true
  else if bval = 0x00FF#16 then some true
  else none

/-- All readings, in the order of the `fmt_sel` bits (R266). -/
def Fmt.all : List Fmt := [.u16, .i16, .u32, .i32, .f32, .u64, .i64, .f64]

/-- The bit of `fmt_sel` that selects a reading (R44, R266). -/
def Fmt.bit : Fmt → Nat
  | .u16 => 0
  | .i16 => 1
  | .u32 => 2
  | .i32 => 3
  | .f32 => 4
  | .u64 => 5
  | .i64 => 6
  | .f64 => 7

/-- The width of a reading's element in bytes (R266). -/
def Fmt.width : Fmt → Nat
  | .u16 | .i16 => 2
  | .u32 | .i32 | .f32 => 4
  | .u64 | .i64 | .f64 => 8

/-- The readings that `fmt_sel` selects, in bit order (R266). -/
def selected (fmtSel : Byte) : List Fmt := Fmt.all.filter (fun f => fmtSel.getLsbD f.bit)

/-- The two's complement number of a raw element of `bits` bits (R267). -/
def twosComplement (bits raw : Nat) : Int :=
  if raw < 2 ^ (bits - 1) then (raw : Int) else (raw : Int) - 2 ^ bits

/-- A raw element under a reading (R267). -/
def Fmt.read (f : Fmt) (raw : Nat) : Element :=
  match f with
  | .u16 | .u32 | .u64 => .unsigned raw
  | .i16 => .signed (twosComplement 16 raw)
  | .i32 => .signed (twosComplement 32 raw)
  | .i64 => .signed (twosComplement 64 raw)
  | .f32 => .float32 (BitVec.ofNat 32 raw)
  | .f64 => .float64 (BitVec.ofNat 64 raw)

/-- The raw element `j` of width `w` of the register bytes `r` (R114). -/
def rawElement (w : Nat) (r : List Byte) (j : Nat) : Nat := bigEndian (slice (w * j) (w * j + w) r)

/-- The array of a reading: one element for each full width of the register bytes (R266). -/
def readAs (f : Fmt) (r : List Byte) : Reading :=
  { fmt := f, elems := (List.range (r.length / f.width)).map (fun j => f.read (rawElement f.width r j)) }

/-- The value of a hex character (R115); none for every other octet. -/
def hexVal (c : Byte) : Option (BitVec 4) :=
  if 0x30 ≤ c.toNat ∧ c.toNat ≤ 0x39 then some (BitVec.ofNat 4 (c.toNat - 0x30))
  else if 0x41 ≤ c.toNat ∧ c.toNat ≤ 0x46 then some (BitVec.ofNat 4 (c.toNat - 0x41 + 10))
  else if 0x61 ≤ c.toNat ∧ c.toNat ≤ 0x66 then some (BitVec.ofNat 4 (c.toNat - 0x61 + 10))
  else none

/-- The byte of a pair of hex characters, the high nibble first (R79, R115); none if one of them is not hex. -/
def hexPair (p c : Byte) : Option Byte :=
  match hexVal p, hexVal c with
  | some h, some l => some (h ++ l)
  | some _, none => none
  | none, _ => none

/-- The upper-case hex character of a nibble (R115). -/
def hexChar (v : BitVec 4) : Byte :=
  if v.toNat < 10 then BitVec.ofNat 8 (0x30 + v.toNat) else BitVec.ofNat 8 (0x41 + v.toNat - 10)

/-- The two characters of a byte, the high nibble first (R115). -/
def hex2 (b : Byte) : List Byte := [hexChar (b.extractLsb' 4 4), hexChar (b.extractLsb' 0 4)]

/-- The kind of a 2-bit code (R117); the code 3 is reserved. -/
def ReportKind.ofCode (c : BitVec 2) : Option ReportKind :=
  if c = 0#2 then some .valid
  else if c = 1#2 then some .errored
  else if c = 2#2 then some .sent
  else none

/-- The 2-bit code of a kind (R117). -/
def ReportKind.code : ReportKind → BitVec 2
  | .valid => 0#2
  | .errored => 1#2
  | .sent => 2#2

/-- The 3-bit code of an error kind (R305). -/
def ErrKind.code : ErrKind → BitVec 3
  | .lenNe => 1#3
  | .lenDecl => 2#3
  | .oddCount => 3#3
  | .widthDiv => 4#3
  | .boolVal => 5#3
  | .tooShort => 6#3

/-- `RTU.win[k]`, where `k` is live (R39, R71): a read outside the live entries has no value. -/
def State.readWin (s : State) (k : Nat) : Option Tracked := s.rtu.win[k]?

/-- `ASC.acc[k]`, where `k` is live (R39, R72). -/
def State.readAcc (s : State) (k : Nat) : Option Byte := s.asc.acc[k]?

/-- Byte `k` of the operand `OPB` (R73). -/
def State.readOpb (s : State) (k : Nat) : Option Byte := s.lines.opb[k]?

/-- Byte `k` of the byte sequence of report `j` of the result, the space `RES` (R75). -/
def State.readReport (s : State) (j k : Nat) : Option Byte :=
  match s.result with
  | .reports ds => (ds[j]?).bind (fun d => d.report.bytes[k]?)
  | _ => none

/-- Byte `k` of the byte sequence a SEND returned, the space `RES` (R70). -/
def State.readSent (s : State) (k : Nat) : Option Byte :=
  match s.result with
  | .bytes bs => bs[k]?
  | _ => none

end Sys2Proof.Machine
end

