-- ==== Sys2Proof/Machine/Flags.lean ====
section
/-! DEFINITION. The condition values (10_state.md R34, R35), the status outputs (R44, R46) and the derived state names (R53).
None of them is stored: each is a view of the state, and reading one changes nothing. -/

namespace Sys2Proof.Machine

/-- `crc_zero` (R34). -/
def crcZero (c : Half) : Bool := c == 0x0000#16

/-- `lrc_zero` (R34). -/
def lrcZero (l : Byte) : Bool := l == 0x00#8

/-- `RTU.n` (R30, R39). -/
def State.rtuN (s : State) : Nat := s.rtu.win.length

/-- `RTU.tmr_armed` (R30, R40). -/
def State.tmrArmed (s : State) : Bool := s.rtu.timer.isSome

/-- `ASC.alen` (R30, R41). -/
def State.ascAlen (s : State) : Nat := s.asc.acc.length

/-- `ASC.pend_v` (R30, R43). -/
def State.pendV (s : State) : Bool := s.asc.pend.isSome

/-- SO0 `CRC_VALUE`: `[16]` = `crc_zero(CK.crc)`, `[15:0]` = `CK.crc`. -/
def State.so0 (s : State) : BitVec 17 := BitVec.ofBool (crcZero s.ck.crc) ++ s.ck.crc

/-- SO1 `LRC_VALUE`: `[8]` = `lrc_zero(CK.lrc)`, `[7:0]` = `CK.lrc`. -/
def State.so1 (s : State) : BitVec 9 := BitVec.ofBool (lrcZero s.ck.lrc) ++ s.ck.lrc

/-- SO2 `RTU_STATUS`: `[12]` = `RTU.tmr_armed`, `[11:0]` = `RTU.n` (log 21). -/
def State.so2 (s : State) : BitVec 13 := BitVec.ofBool s.tmrArmed ++ BitVec.ofNat 12 s.rtuN

/-- SO3 `ASC_STATUS`: an unbounded length, one bit and eight bits. -/
structure AscStatus where
  alen : Nat
  pendV : Bool
  lrc : Byte
  deriving DecidableEq, Repr

/-- SO3 of a state. -/
def State.so3 (s : State) : AscStatus := { alen := s.ascAlen, pendV := s.pendV, lrc := s.asc.lrc }

/-- U3 is idle when `RTU.n = 0` and accumulating otherwise (R53). -/
def State.rtuIdle (s : State) : Bool := s.rtu.win.isEmpty

/-- `ASC.alen = 0`, the form in which D16 of 92_eei_decisions.md gives "idle"; its negation is D16's "accumulating". -/
def State.ascBufferEmpty (s : State) : Bool := s.asc.acc.isEmpty

/-- U4 is idle when `ASC.alen = 0` and `ASC.pend_v = 0`, and accumulating otherwise: R53's own words. DESIGN CHOICE (log 26):
D16, the decision that R53 cites, asks `ASC.alen = 0` only, which is `ascBufferEmpty`; the name "idle" goes to the rule's
form. -/
def State.ascIdle (s : State) : Bool := s.ascBufferEmpty && !s.pendV

end Sys2Proof.Machine
end

