-- ==== Sys2Proof/Machine/Ops.lean ====
section
/-! DEFINITION. The shared operations: the checksum steps (40_checksum.md), the RTU window and its timer (41_rtu_sync.md),
the ASCII buffer (42_ascii_seg.md), and how an operation completes. There is no trap entry and no return from one: what
stands in its place is that a report joins the operation's result and the unit's state is set (60_exceptions.md R317, R318). -/

namespace Sys2Proof.Machine

/-! U1 and U2. -/

/-- One iteration of the bit loop (R141). The low bit is tested before the shift; the shift is logical. -/
def crcBit (c : Half) : Half := if c.getLsbD 0 then (c >>> 1) ^^^ crcPoly else c >>> 1

/-- `k` iterations of the bit loop. -/
def crcBits : Nat → Half → Half
  | 0, c => c
  | k + 1, c => crcBits k (crcBit c)

/-- `crc16_step` (R141): the byte into the low 8 bits, then eight iterations. -/
def crc16Step (c : Half) (b : Byte) : Half := crcBits 8 (c ^^^ b.setWidth 16)

/-- `crc16_step` folded over a sequence from an accumulator. -/
def crc16From (c : Half) (bs : List Byte) : Half := bs.foldl crc16Step c

/-- `crc16` (00_scope.md R16): from `CRC_SEED`, with no finalisation (R143). -/
def crc16 (bs : List Byte) : Half := crc16From crcSeed bs

/-- `lrc_step` (R145): addition modulo 256. -/
def lrcStep (l b : Byte) : Byte := l + b

/-- The 8-bit sum of a sequence from `LRC_SEED`. -/
def lrcSum (bs : List Byte) : Byte := bs.foldl lrcStep lrcSeed

/-- `lrc_of` (R16, R147): the negated sum, the check byte a sender appends. -/
def lrcOf (bs : List Byte) : Byte := 0x00#8 - lrcSum bs

/-! U3. -/

/-- The load value `T(baud) = 1 + ceil(50000 / baud)` (R162) for a positive `baud`. -/
def timerLoad (baud : BitVec 32) : BitVec 16 :=
  BitVec.ofNat 16 (tmoBase + (tmoNum + baud.toNat - 1) / baud.toNat)

/-- The bytes of window entries. -/
def winBytes (win : List Tracked) : List Byte := win.map (fun t => t.byte)

/-- One lane takes one byte (R164). -/
def Tracked.feed (b : Byte) (t : Tracked) : Tracked := { t with crc := crc16Step t.crc b }

/-- Step 3 of RTU.RX: append with a lane at the seed (R163), then feed every lane, the new one too (R164). -/
def pushByte (win : List Tracked) (b : Byte) : List Tracked :=
  (win ++ [Tracked.mk b crcSeed]).map (Tracked.feed b)

/-- Step 4 of RTU.RX: the lowest offset whose candidate has at least `minLen` bytes and whose lane reads zero (R165). -/
def findMatch (minLen : Nat) : List Tracked → Option Nat
  | [] => none
  | t :: ts =>
    if ts.length + 1 < minLen then none
    else if crcZero t.crc then some 0
    else (findMatch minLen ts).map (fun i => i + 1)

/-- The reports of a match at offset `i` (R166): the bytes before it, if any, as garbage, then the candidate without its
two checksum bytes. -/
def matchReports (i : Nat) (bs : List Byte) : List Report :=
  (if 0 < i then [Report.mk .errored (slice 0 i bs)] else []) ++ [Report.mk .valid (slice i (bs.length - 2) bs)]

/-- RTU.RX on U3 (R161): the unit afterwards and the reports, in order. -/
def rtuReceive (cfg : Config) (baud : BitVec 32) (win : List Tracked) (b : Byte) : Rtu × List Report :=
  let win := pushByte win b
  match findMatch cfg.minMatchLen win with
  | some i => ({ win := [], timer := none }, matchReports i (winBytes win))
  | none =>
    if cfg.winCeiling < win.length then
      ({ win := win.drop cfg.evictBatch, timer := some (timerLoad baud) },
        [{ kind := .errored, bytes := slice 0 cfg.evictBatch (winBytes win) }])
    else ({ win := win, timer := some (timerLoad baud) }, [])

/-- The forced flush (R171): the whole window as one report, if it is not empty. DESIGN CHOICE (log 27): it may hold
`WIN_CEILING` bytes, so its data field may be longer than the 2297 bytes that 44_field_codecs.md R278 derives. -/
def rtuFlush (win : List Tracked) : List Report :=
  if win.isEmpty then [] else [{ kind := .errored, bytes := winBytes win }]

/-- RTU.TICK on U3 (R170): the unit afterwards and the reports. -/
def rtuElapse (u : Rtu) : Rtu × List Report :=
  match u.timer with
  | none => (u, [])
  | some c =>
    if c - 1#16 = 0#16 then ({ win := [], timer := none }, rtuFlush u.win)
    else ({ u with timer := some (c - 1#16) }, [])

/-- The wire form of a payload (R173): the low byte of its CRC, then the low byte of the accumulator fed with that byte. -/
def rtuFrame (p : List Byte) : List Byte :=
  let c := crc16 p
  let lo := loByte c
  p ++ [lo, loByte (crc16Step c lo)]

/-! U4. -/

/-- The start marker `:`. -/
def chColon : Byte := 0x3A#8

/-- Carriage return. -/
def chCr : Byte := 0x0D#8

/-- Line feed. -/
def chLf : Byte := 0x0A#8

/-- Everything accumulated as one `Errored` report, if there is anything (R192, R197, R198). -/
def ascFlush (acc : List Byte) : List Report :=
  if acc.isEmpty then [] else [{ kind := .errored, bytes := acc }]

/-- The terminator (R195, R196): the check byte dropped, the kind by the LRC, nothing for an empty buffer. -/
def ascTerminate (u : Asc) : List Report :=
  if u.acc.isEmpty then []
  else [{ kind := if lrcZero u.lrc then .valid else .errored, bytes := slice 0 (u.acc.length - 1) u.acc }]

/-- A data byte (R194), and the flush of a buffer that it fills (R198). -/
def ascAppend (cap : Option Nat) (u : Asc) (v : Byte) : Asc × List Report :=
  let acc := u.acc ++ [v]
  if cap = some acc.length then (Asc.reset, ascFlush acc)
  else ({ acc := acc, lrc := lrcStep u.lrc v, pend := none }, [])

/-- ASC.RX on U4 (R191): the unit afterwards and the reports. -/
def ascReceive (cap : Option Nat) (u : Asc) (c : Byte) : Asc × List Report :=
  if c = chColon then (Asc.reset, ascFlush u.acc)
  else
    match u.pend with
    | none => ({ u with pend := some c }, [])
    | some p =>
      if p = chCr ∧ c = chLf then (Asc.reset, ascTerminate u)
      else
        match hexPair p c with
        | some v => ascAppend cap u v
        | none => (Asc.reset, ascFlush u.acc)

/-- The wire form of a payload (R201): `:`, the payload and its check byte in upper-case hex, CR LF. -/
def ascFrame (p : List Byte) : List Byte :=
  [chColon] ++ p.flatMap hex2 ++ hex2 (lrcOf p) ++ [chCr, chLf]

/-! Completion. -/

/-- Whether the operand buffer can hold a payload (`SEND_MAX`, R173, R201, log 9). -/
def payloadFits (cfg : Config) (p : List Byte) : Bool :=
  match cfg.sendMax with
  | none => true
  | some m => decide (p.length ≤ m)

/-- An operation completes: it hands its result over, and every effect is in the state (R85, R353). -/
def State.complete (s : State) (r : OpResult) : Outcome := .next (s.setResult r)

end Sys2Proof.Machine
end

