-- ==== Sys2Proof/Machine/Codec.lean ====
section
/-! DEFINITION. U5, the seven field codecs (44_field_codecs.md), and the meanings of the codec selects (30_encoding.md R124).
A codec is a function of the data field, and for registers of `fmt_sel`; it reads and writes no state (10_state.md R51). The
operand of a codec select is the data field in `OPB` (log 1). -/

namespace Sys2Proof.Machine

/-- The codecs a registry entry can name (R124). -/
inductive Codec where
  | aq
  | bools
  | regs
  | ab
  | ar
  | aqb
  | aqr
  deriving DecidableEq, Repr

/-- `csel` of a direction (R124, 43_dispatch.md R221): 0 when the codec is absent. -/
def cselCode : Option Codec → BitVec 3
  | none => 0#3
  | some .aq => 1#3
  | some .bools => 2#3
  | some .regs => 3#3
  | some .ab => 4#3
  | some .ar => 5#3
  | some .aqb => 6#3
  | some .aqr => 7#3

/-- `fail KIND(expected, actual)` (00_scope.md R15). -/
def failWith {α : Type} (kind : ErrKind) (expected actual : Nat) : Except DecErr α :=
  .error { kind := kind, expected := expected, actual := actual }

/-- Two 16-bit fields in exactly 4 bytes: the formats AQ (R104) and AR (R108). -/
def twoHalves : List Byte → Except DecErr (Half × Half)
  | [a, b, c, d] => .ok (pair a b, pair c d)
  | d => failWith .lenNe 4 d.length

/-- A count byte and exactly that many bytes after it: the shape of BOOLS (R105) and REGS (R106). -/
def counted : List Byte → Except DecErr (Byte × List Byte)
  | [] => failWith .lenDecl 1 0
  | n :: r => if r.length = n.toNat then .ok (n, r) else failWith .lenDecl (1 + n.toNat) (r.length + 1)

/-- BOOLS (R262): the count and the booleans. -/
def boolsFields (d : List Byte) : Except DecErr (Byte × List Bool) :=
  (counted d).map (fun (n, r) => (n, unpackBools r))

/-- REGS (R266): the count and one array per selected reading. -/
def regsFields (fmtSel : Byte) (d : List Byte) : Except DecErr (Byte × List Reading) :=
  match counted d with
  | .error e => .error e
  | .ok (n, r) =>
    if n.toNat % 2 ≠ 0 then failWith .oddCount 2 n.toNat
    else
      match (selected fmtSel).find? (fun f => n.toNat % f.width ≠ 0) with
      | some f => failWith .widthDiv f.width n.toNat
      | none => .ok (n, (selected fmtSel).map (fun f => readAs f r))

/-- AB (R269): the length is tested before the value. DESIGN CHOICE (log 28): an illegal value is `err(BOOL_VAL)` also under
function code 0x05, as R226, R269 and R128 have it, though an example inside R293 says that every 4-byte data field under
that code decodes. -/
def coilFields (d : List Byte) : Except DecErr (Half × Bool) :=
  match twoHalves d with
  | .error e => .error e
  | .ok (address, bval) =>
    match coilValue bval with
    | some v => .ok (address, v)
    | none => failWith .boolVal 0xFF00 bval.toNat

/-- The shape of the composites (R273, R275): AQ on the first 4 bytes, a sub-codec on the rest, whose error is returned
unchanged. -/
def composite {α : Type} (sub : List Byte → Except DecErr α) (d : List Byte) : Except DecErr ((Half × Half) × α) :=
  if d.length ≤ 4 then failWith .tooShort 5 d.length
  else
    match twoHalves (slice 0 4 d), sub (slice 4 d.length d) with
    | .error e, _ => .error e
    | .ok _, .error e => .error e
    | .ok a, .ok b => .ok (a, b)

/-- The result a codec returns (R277). -/
def CodecResult.of {α : Type} (value : α → Value) : Except DecErr α → CodecResult
  | .ok x => .ok (value x)
  | .error e => .err e

/-- DEC.AQ (R260). -/
def decodeAq (d : List Byte) : CodecResult := .of (fun (a, q) => .aq a q) (twoHalves d)

/-- DEC.BOOLS (R262). -/
def decodeBools (d : List Byte) : CodecResult := .of (fun (n, bs) => .bools n bs) (boolsFields d)

/-- DEC.REGS (R266). -/
def decodeRegs (fmtSel : Byte) (d : List Byte) : CodecResult := .of (fun (n, vs) => .regs n vs) (regsFields fmtSel d)

/-- DEC.AB (R269). -/
def decodeAb (d : List Byte) : CodecResult := .of (fun (a, v) => .ab a v) (coilFields d)

/-- DEC.AR (R271). -/
def decodeAr (d : List Byte) : CodecResult := .of (fun (a, v) => .ar a v) (twoHalves d)

/-- DEC.AQB (R273). -/
def decodeAqb (d : List Byte) : CodecResult :=
  .of (fun ((a, q), (n, bs)) => .aqb a q n bs) (composite boolsFields d)

/-- DEC.AQR (R275). -/
def decodeAqr (fmtSel : Byte) (d : List Byte) : CodecResult :=
  .of (fun ((a, q), (n, vs)) => .aqr a q n vs) (composite (regsFields fmtSel) d)

/-- `codec[s]` (43_dispatch.md R245). Only REGS and AQR read `fmt_sel`. -/
def Codec.run (c : Codec) (fmtSel : Byte) (d : List Byte) : CodecResult :=
  match c with
  | .aq => decodeAq d
  | .bools => decodeBools d
  | .regs => decodeRegs fmtSel d
  | .ab => decodeAb d
  | .ar => decodeAr d
  | .aqb => decodeAqb d
  | .aqr => decodeAqr fmtSel d

/-! The meanings of the codec selects. -/

/-- CSEL.NONE (R221): the direction is absent. -/
def execCselNone (s : State) : Outcome := s.complete (.codec none)

/-- DEC.AQ (R260). -/
def execDecAq (s : State) : Outcome := s.complete (.codec (some (decodeAq s.lines.opb)))

/-- DEC.BOOLS (R262). -/
def execDecBools (s : State) : Outcome := s.complete (.codec (some (decodeBools s.lines.opb)))

/-- DEC.REGS (R266). -/
def execDecRegs (s : State) : Outcome := s.complete (.codec (some (decodeRegs s.lines.fmtSel s.lines.opb)))

/-- DEC.AB (R269). -/
def execDecAb (s : State) : Outcome := s.complete (.codec (some (decodeAb s.lines.opb)))

/-- DEC.AR (R271). -/
def execDecAr (s : State) : Outcome := s.complete (.codec (some (decodeAr s.lines.opb)))

/-- DEC.AQB (R273). -/
def execDecAqb (s : State) : Outcome := s.complete (.codec (some (decodeAqb s.lines.opb)))

/-- DEC.AQR (R275). -/
def execDecAqr (s : State) : Outcome := s.complete (.codec (some (decodeAqr s.lines.fmtSel s.lines.opb)))

end Sys2Proof.Machine
end

