-- ==== Sys2Proof/Machine/Registry.lean ====
section
/-! DEFINITION. U6, first part: the function-code registry, the dispatch multiplexer (43_dispatch.md), and the meanings of
the function codes. The operands of a function code are those of `dispatch`: the data field in `OPB` and `fmt_sel` (log 1). -/

namespace Sys2Proof.Machine

/-- A registry entry (R220, R221). The two codecs are separate options, so that a one-sided entry is expressible (R247).
The description is an opaque label that `descIdx` selects (log 19). -/
structure RegEntry where
  descIdx : BitVec 7
  request : Option Codec
  response : Option Codec
  deriving DecidableEq, Repr

/-- The entry of function code 0x01 (R222). -/
def entry01 : RegEntry := { descIdx := 0x01#7, request := some .aq, response := some .bools }

/-- The entry of function code 0x02 (R223). -/
def entry02 : RegEntry := { descIdx := 0x02#7, request := some .aq, response := some .bools }

/-- The entry of function code 0x03 (R224). -/
def entry03 : RegEntry := { descIdx := 0x03#7, request := some .aq, response := some .regs }

/-- The entry of function code 0x04 (R225). -/
def entry04 : RegEntry := { descIdx := 0x04#7, request := some .aq, response := some .regs }

/-- The entry of function code 0x05 (R226). -/
def entry05 : RegEntry := { descIdx := 0x05#7, request := some .ab, response := some .ab }

/-- The entry of function code 0x06 (R227). -/
def entry06 : RegEntry := { descIdx := 0x06#7, request := some .ar, response := some .ar }

/-- The entry of function code 0x07 (R228). -/
def entry07 : RegEntry := { descIdx := 0x07#7, request := none, response := none }

/-- The entry of function code 0x08 (R229). -/
def entry08 : RegEntry := { descIdx := 0x08#7, request := none, response := none }

/-- The entry of function code 0x0F (R230). -/
def entry0F : RegEntry := { descIdx := 0x0F#7, request := some .aqb, response := some .aq }

/-- The entry of function code 0x10 (R231). -/
def entry10 : RegEntry := { descIdx := 0x10#7, request := some .aqr, response := some .aq }

/-- The entry of function code 0x11 (R232). -/
def entry11 : RegEntry := { descIdx := 0x11#7, request := none, response := none }

/-- The entry of function code 0x81, the error-flagged counterpart of 0x01 (R233). -/
def entry81 : RegEntry := { descIdx := 0x01#7, request := none, response := none }

/-- The entry of function code 0x82, the error-flagged counterpart of 0x02 (R234). -/
def entry82 : RegEntry := { descIdx := 0x02#7, request := none, response := none }

/-- The entry of function code 0x83, the error-flagged counterpart of 0x03 (R235). -/
def entry83 : RegEntry := { descIdx := 0x03#7, request := none, response := none }

/-- The entry of function code 0x84, the error-flagged counterpart of 0x04 (R236). -/
def entry84 : RegEntry := { descIdx := 0x04#7, request := none, response := none }

/-- The entry of function code 0x85, the error-flagged counterpart of 0x05 (R237). -/
def entry85 : RegEntry := { descIdx := 0x05#7, request := none, response := none }

/-- The entry of function code 0x86, the error-flagged counterpart of 0x06 (R238). -/
def entry86 : RegEntry := { descIdx := 0x06#7, request := none, response := none }

/-- The entry of function code 0x87, the error-flagged counterpart of 0x07 (R239). -/
def entry87 : RegEntry := { descIdx := 0x07#7, request := none, response := none }

/-- The entry of function code 0x88, the error-flagged counterpart of 0x08 (R240). -/
def entry88 : RegEntry := { descIdx := 0x08#7, request := none, response := none }

/-- The entry of function code 0x8F, the error-flagged counterpart of 0x0F (R241). -/
def entry8F : RegEntry := { descIdx := 0x0F#7, request := none, response := none }

/-- The entry of function code 0x90, the error-flagged counterpart of 0x10 (R242). -/
def entry90 : RegEntry := { descIdx := 0x10#7, request := none, response := none }

/-- The entry of function code 0x91, the error-flagged counterpart of 0x11 (R243). -/
def entry91 : RegEntry := { descIdx := 0x11#7, request := none, response := none }

/-- The registry `REG` (R220): constant, indexed by the 8-bit function code, none where unpopulated (R74, R244). -/
def registry (fc : Byte) : Option RegEntry :=
  match fc.toNat with
  | 0x01 => some entry01
  | 0x02 => some entry02
  | 0x03 => some entry03
  | 0x04 => some entry04
  | 0x05 => some entry05
  | 0x06 => some entry06
  | 0x07 => some entry07
  | 0x08 => some entry08
  | 0x0F => some entry0F
  | 0x10 => some entry10
  | 0x11 => some entry11
  | 0x81 => some entry81
  | 0x82 => some entry82
  | 0x83 => some entry83
  | 0x84 => some entry84
  | 0x85 => some entry85
  | 0x86 => some entry86
  | 0x87 => some entry87
  | 0x88 => some entry88
  | 0x8F => some entry8F
  | 0x90 => some entry90
  | 0x91 => some entry91
  | _ => none

/-- One direction of a dispatch (R245): absent without a codec. -/
def runDirection (c : Option Codec) (fmtSel : Byte) (d : List Byte) : Option CodecResult :=
  c.map (fun c => c.run fmtSel d)

/-- `fc_err` (R291): bit 7 of the function code. -/
def fcErrBit (fc : Byte) : Bool := fc.getLsbD 7

/-- `desc_idx` (R291): bits 6 to 0 of the function code. -/
def fcDescIdx (fc : Byte) : BitVec 7 := fc.extractLsb' 0 7

/-- `dispatch` (R245) of a function code whose registry lookup is `e`: two independent selections on the same data field
(R246). -/
def dispatchEntry (e : Option RegEntry) (fc fmtSel : Byte) (d : List Byte) : FcResult :=
  match e with
  | none => { known := false, fcErr := fcErrBit fc, descIdx := fcDescIdx fc, request := none, response := none }
  | some e =>
    { known := true, fcErr := fcErrBit fc, descIdx := e.descIdx,
      request := runDirection e.request fmtSel d, response := runDirection e.response fmtSel d }

/-- `dispatch` (R245). -/
def dispatch (fc fmtSel : Byte) (d : List Byte) : FcResult := dispatchEntry (registry fc) fc fmtSel d

/-- A function code presented alone, its registry lookup being `e`: the dispatch of the data field in `OPB`. -/
def State.dispatchAs (s : State) (e : Option RegEntry) (fc : Byte) : Outcome :=
  s.complete (.dispatched (dispatchEntry e fc s.lines.fmtSel s.lines.opb))

/-! The meanings of the function codes. -/

/-- Function code 0x01 (R222). -/
def execFc01 (s : State) : Outcome := s.dispatchAs (some entry01) 0x01#8

/-- Function code 0x02 (R223). -/
def execFc02 (s : State) : Outcome := s.dispatchAs (some entry02) 0x02#8

/-- Function code 0x03 (R224). -/
def execFc03 (s : State) : Outcome := s.dispatchAs (some entry03) 0x03#8

/-- Function code 0x04 (R225). -/
def execFc04 (s : State) : Outcome := s.dispatchAs (some entry04) 0x04#8

/-- Function code 0x05 (R226). -/
def execFc05 (s : State) : Outcome := s.dispatchAs (some entry05) 0x05#8

/-- Function code 0x06 (R227). -/
def execFc06 (s : State) : Outcome := s.dispatchAs (some entry06) 0x06#8

/-- Function code 0x07 (R228). -/
def execFc07 (s : State) : Outcome := s.dispatchAs (some entry07) 0x07#8

/-- Function code 0x08 (R229). -/
def execFc08 (s : State) : Outcome := s.dispatchAs (some entry08) 0x08#8

/-- Function code 0x0F (R230). -/
def execFc0F (s : State) : Outcome := s.dispatchAs (some entry0F) 0x0F#8

/-- Function code 0x10 (R231). -/
def execFc10 (s : State) : Outcome := s.dispatchAs (some entry10) 0x10#8

/-- Function code 0x11 (R232). -/
def execFc11 (s : State) : Outcome := s.dispatchAs (some entry11) 0x11#8

/-- Function code 0x81 (R233). -/
def execFc81 (s : State) : Outcome := s.dispatchAs (some entry81) 0x81#8

/-- Function code 0x82 (R234). -/
def execFc82 (s : State) : Outcome := s.dispatchAs (some entry82) 0x82#8

/-- Function code 0x83 (R235). -/
def execFc83 (s : State) : Outcome := s.dispatchAs (some entry83) 0x83#8

/-- Function code 0x84 (R236). -/
def execFc84 (s : State) : Outcome := s.dispatchAs (some entry84) 0x84#8

/-- Function code 0x85 (R237). -/
def execFc85 (s : State) : Outcome := s.dispatchAs (some entry85) 0x85#8

/-- Function code 0x86 (R238). -/
def execFc86 (s : State) : Outcome := s.dispatchAs (some entry86) 0x86#8

/-- Function code 0x87 (R239). -/
def execFc87 (s : State) : Outcome := s.dispatchAs (some entry87) 0x87#8

/-- Function code 0x88 (R240). -/
def execFc88 (s : State) : Outcome := s.dispatchAs (some entry88) 0x88#8

/-- Function code 0x8F (R241). -/
def execFc8F (s : State) : Outcome := s.dispatchAs (some entry8F) 0x8F#8

/-- Function code 0x90 (R242). -/
def execFc90 (s : State) : Outcome := s.dispatchAs (some entry90) 0x90#8

/-- Function code 0x91 (R243). -/
def execFc91 (s : State) : Outcome := s.dispatchAs (some entry91) 0x91#8

/-- A function code with no registry entry (R244): both directions absent, no error. -/
def execFcUnknown (fc : Byte) (s : State) : Outcome := s.dispatchAs none fc

end Sys2Proof.Machine
end

