-- ==== Sys2Proof/Machine/Frame.lean ====
section
/-! DEFINITION. U6, second part: the frame decoder (45_frame_decoder.md), and how the reports of a stream operation reach the
sink through it (R295, 30_encoding.md R118). -/

namespace Sys2Proof.Machine

/-- The procedure of DEC.FRAME (R290): fewer than two bytes are no frame (R292); the tag does not influence it (R294). -/
def decodeFrame (tag : ReportKind) (seg : List Byte) (fmtSel : Byte) : DecodedFrame :=
  match seg with
  | slaveAddr :: fc :: d =>
    let r := dispatch fc fmtSel d
    { tag := tag,
      body := some
        { slaveAddr := slaveAddr, funcCode := fc, fcErr := fcErrBit fc, descIdx := fcDescIdx fc, fcKnown := r.known,
          master := r.request, slave := r.response } }
  | [_] => { tag := tag, body := none }
  | [] => { tag := tag, body := none }

/-- A report with its decoded frame, as the sink receives it (R118, R295). -/
def Report.deliver (fmtSel : Byte) (r : Report) : Delivery :=
  { report := r, frame := decodeFrame r.kind r.bytes fmtSel }

/-- A stream operation completes: each report goes through the frame decoder, in order, with `fmt_sel` as sampled at the
start of the operation (R295). The list is the result (R117, R319). -/
def State.deliver (s : State) (rs : List Report) : Outcome :=
  s.complete (.reports (rs.map (Report.deliver s.lines.fmtSel)))

/-- DEC.FRAME tag (R290). Tag kind 3 is refused (R122). -/
def execDecFrame (tag : BitVec 2) (s : State) : Outcome :=
  match ReportKind.ofCode tag with
  | some kind => s.complete (.frame (decodeFrame kind s.lines.opb s.lines.fmtSel))
  | none => .refused .reservedTag

end Sys2Proof.Machine
end

