-- ==== Sys2Proof/Machine/AsciiSeg.lean ====
section
/-! DEFINITION. U4, the ASCII frame segmenter: the meanings of ASC.RX and ASC.SEND (42_ascii_seg.md). -/

namespace Sys2Proof.Machine

/-- ASC.RX c (R191). -/
def execAscRx (c : Byte) (s : State) : Outcome :=
  let r := ascReceive s.cfg.ascCap s.asc c
  (s.setAsc r.1).deliver r.2

/-- ASC.SEND (R201): pure, no report. -/
def execAscSend (s : State) : Outcome :=
  if payloadFits s.cfg s.lines.opb then s.complete (.bytes (ascFrame s.lines.opb))
  else .refused .payloadTooLong

end Sys2Proof.Machine
end

