-- ==== Sys2Proof/Machine/Checksum.lean ====
section
/-! DEFINITION. U1 and U2: the meanings of CRC.INIT, CRC.UPD, LRC.INIT and LRC.UPD (40_checksum.md). -/

namespace Sys2Proof.Machine

/-- CRC.INIT (R140). -/
def execCrcInit (s : State) : Outcome := (s.setCk { s.ck with crc := crcSeed }).complete .nothing

/-- CRC.UPD b (R141): the new accumulator is also the result. -/
def execCrcUpd (b : Byte) (s : State) : Outcome :=
  let c := crc16Step s.ck.crc b
  (s.setCk { s.ck with crc := c }).complete (.crc c)

/-- LRC.INIT (R144). -/
def execLrcInit (s : State) : Outcome := (s.setCk { s.ck with lrc := lrcSeed }).complete .nothing

/-- LRC.UPD b (R145): the new accumulator is also the result. -/
def execLrcUpd (b : Byte) (s : State) : Outcome :=
  let l := lrcStep s.ck.lrc b
  (s.setCk { s.ck with lrc := l }).complete (.lrc l)

end Sys2Proof.Machine
end

