-- ==== Sys2Proof/Machine/RtuSync.lean ====
section
/-! DEFINITION. U3, the RTU frame synchronizer: the meanings of RTU.RX, RTU.TICK and RTU.SEND (41_rtu_sync.md). -/

namespace Sys2Proof.Machine

/-- RTU.RX b (R161). With `baud = 0` it is refused (10_state.md R45). -/
def execRtuRx (b : Byte) (s : State) : Outcome :=
  if s.lines.baud = 0#32 then .refused .baudZero
  else
    let r := rtuReceive s.cfg s.lines.baud s.rtu.win b
    (s.setRtu r.1).deliver r.2

/-- RTU.TICK (R170). -/
def execRtuTick (s : State) : Outcome :=
  let r := rtuElapse s.rtu
  (s.setRtu r.1).deliver r.2

/-- RTU.SEND (R173): pure, no report. -/
def execRtuSend (s : State) : Outcome :=
  if payloadFits s.cfg s.lines.opb then s.complete (.bytes (rtuFrame s.lines.opb))
  else .refused .payloadTooLong

end Sys2Proof.Machine
end

