-- ==== Sys2Proof/Machine/System.lean ====
section
/-! DEFINITION. The system operation SYS.RESET (45_frame_decoder.md R297) and the reserved commands (30_encoding.md R122). -/

namespace Sys2Proof.Machine

/-- SYS.RESET (R297): every unit as after power-on (R55); pending bytes are discarded without a report. The parameters, the
driven lines and the transactions still to come are not the block's state and stay. -/
def execSysReset (s : State) : Outcome :=
  (((s.setCk Ck.reset).setRtu Rtu.reset).setAsc Asc.reset).complete .nothing

/-- A reserved command (R122): refused, "changes no state and returns nothing". -/
def execCmdReserved (op : BitVec 5) (_b : Byte) (_s : State) : Outcome := .refused (.reservedCommand op)

end Sys2Proof.Machine
end

