-- ==== Sys2Proof/Machine/Dispatch.lean ====
section
/-! DEFINITION. The dispatch: one arm per constructor of `Instr`, each one direct call of its meaning. -/

namespace Sys2Proof.Machine

def exec (i : Instr) (s : State) : Host.Outcome State Fault Refusal :=
  match i with
  | .sysReset => Sys2Proof.Machine.execSysReset s
  | .crcInit => Sys2Proof.Machine.execCrcInit s
  | .crcUpd b => Sys2Proof.Machine.execCrcUpd b s
  | .lrcInit => Sys2Proof.Machine.execLrcInit s
  | .lrcUpd b => Sys2Proof.Machine.execLrcUpd b s
  | .rtuRx b => Sys2Proof.Machine.execRtuRx b s
  | .rtuTick => Sys2Proof.Machine.execRtuTick s
  | .rtuSend => Sys2Proof.Machine.execRtuSend s
  | .ascRx c => Sys2Proof.Machine.execAscRx c s
  | .ascSend => Sys2Proof.Machine.execAscSend s
  | .decFrame tag => Sys2Proof.Machine.execDecFrame tag s
  | .cmdReserved op b => Sys2Proof.Machine.execCmdReserved op b s
  | .cselNone => Sys2Proof.Machine.execCselNone s
  | .decAq => Sys2Proof.Machine.execDecAq s
  | .decBools => Sys2Proof.Machine.execDecBools s
  | .decRegs => Sys2Proof.Machine.execDecRegs s
  | .decAb => Sys2Proof.Machine.execDecAb s
  | .decAr => Sys2Proof.Machine.execDecAr s
  | .decAqb => Sys2Proof.Machine.execDecAqb s
  | .decAqr => Sys2Proof.Machine.execDecAqr s
  | .fc01 => Sys2Proof.Machine.execFc01 s
  | .fc02 => Sys2Proof.Machine.execFc02 s
  | .fc03 => Sys2Proof.Machine.execFc03 s
  | .fc04 => Sys2Proof.Machine.execFc04 s
  | .fc05 => Sys2Proof.Machine.execFc05 s
  | .fc06 => Sys2Proof.Machine.execFc06 s
  | .fc07 => Sys2Proof.Machine.execFc07 s
  | .fc08 => Sys2Proof.Machine.execFc08 s
  | .fc0F => Sys2Proof.Machine.execFc0F s
  | .fc10 => Sys2Proof.Machine.execFc10 s
  | .fc11 => Sys2Proof.Machine.execFc11 s
  | .fc81 => Sys2Proof.Machine.execFc81 s
  | .fc82 => Sys2Proof.Machine.execFc82 s
  | .fc83 => Sys2Proof.Machine.execFc83 s
  | .fc84 => Sys2Proof.Machine.execFc84 s
  | .fc85 => Sys2Proof.Machine.execFc85 s
  | .fc86 => Sys2Proof.Machine.execFc86 s
  | .fc87 => Sys2Proof.Machine.execFc87 s
  | .fc88 => Sys2Proof.Machine.execFc88 s
  | .fc8F => Sys2Proof.Machine.execFc8F s
  | .fc90 => Sys2Proof.Machine.execFc90 s
  | .fc91 => Sys2Proof.Machine.execFc91 s
  | .fcUnknown fc => Sys2Proof.Machine.execFcUnknown fc s

end Sys2Proof.Machine
end

