-- ==== Sys2Proof/Machine/Step.lean ====
section
/-! DEFINITION. One step of the machine: the next transaction runs to its end (20_memory.md R85, R89). -/

namespace Sys2Proof.Machine

/-- The agents' next transaction is presented and its operation runs. With none to come the block does nothing: it "has no
autonomous step" (00_scope.md R19, 10_state.md R33, log 2). -/
def step (s : State) : Host.Outcome State Fault Refusal :=
  match s.pending with
  | [] => .next s
  | t :: rest => exec (decode t.word) (s.present t.lines rest)

/-- The state in which the next transaction is the instruction whose bits are `w`, with the lines as they are driven
(log 3). -/
def State.withFetchWord (s : State) (nbits w : Nat) : State :=
  match tableWord nbits w with
  | some word => { s with pending := { word := word, lines := s.lines } :: s.pending }
  | none => s

end Sys2Proof.Machine
end

