-- ==== Sys2Proof/Safety.lean ====
section
/-! DEFINITION. The terms in which claims are made: when an operation has a meaning, what holds between operations, runs of
several operations with their reports, and the bytes that a report stands for on the wire. -/

namespace Sys2Proof.Machine

/-- When an operation has a meaning (60_exceptions.md R310): not a reserved command, not DEC.FRAME with tag kind 3, not RTU.RX
with `baud = 0`; and, the model's choice (log 9), no SEND of a payload longer than `SEND_MAX` where that is set. -/
def Executable (i : Instr) (s : State) : Prop :=
  match i with
  | .cmdReserved _ _ => False
  | .decFrame tag => tag ≠ 3#2
  | .rtuRx _ => s.lines.baud ≠ 0#32
  | .rtuSend | .ascSend => ∀ m, s.cfg.sendMax = some m → s.lines.opb.length ≤ m
  | .sysReset | .crcInit | .crcUpd _ | .lrcInit | .lrcUpd _ | .rtuTick | .ascRx _ => True
  | .cselNone | .decAq | .decBools | .decRegs | .decAb | .decAr | .decAqb | .decAqr => True
  | .fc01 | .fc02 | .fc03 | .fc04 | .fc05 | .fc06 | .fc07 | .fc08 | .fc0F | .fc10 | .fc11 => True
  | .fc81 | .fc82 | .fc83 | .fc84 | .fc85 | .fc86 | .fc87 | .fc88 | .fc8F | .fc90 | .fc91 => True
  | .fcUnknown _ => True

/-- The operations that read and write no unit state (20_memory.md R86, 10_state.md R51, R52): the two SENDs, DEC.FRAME, the
codec selects and the function codes. -/
def isPure : Instr → Bool
  | .sysReset | .crcInit | .crcUpd _ | .lrcInit | .lrcUpd _ | .rtuRx _ | .rtuTick | .ascRx _ => false
  | .rtuSend | .ascSend | .decFrame _ | .cmdReserved _ _ => true
  | .cselNone | .decAq | .decBools | .decRegs | .decAb | .decAr | .decAqb | .decAqr => true
  | .fc01 | .fc02 | .fc03 | .fc04 | .fc05 | .fc06 | .fc07 | .fc08 | .fc0F | .fc10 | .fc11 => true
  | .fc81 | .fc82 | .fc83 | .fc84 | .fc85 | .fc86 | .fc87 | .fc88 | .fc8F | .fc90 | .fc91 => true
  | .fcUnknown _ => true

/-- What holds between operations. -/
structure State.Inv (s : State) : Prop where
  /-- The parameters are ones a model may assume (00_scope.md R11, R198). -/
  legal : s.cfg.legal = true
  /-- The window invariant (10_state.md R38): each lane is the CRC from its own entry to the newest. -/
  lanes : ∀ k t, s.readWin k = some t → t.crc = crc16 (winBytes (s.rtu.win.drop k))
  /-- `RTU.n` is at most `WIN_CEILING` (R30, R169). -/
  bounded : s.rtuN ≤ s.cfg.winCeiling
  /-- No eligible lane reads zero: a match would have been taken (R165, R166). -/
  unmatched : ∀ k t, s.readWin k = some t → k + s.cfg.minMatchLen ≤ s.rtuN → t.crc ≠ 0#16
  /-- The timer is armed exactly when the window is not empty (R169). -/
  armed : s.tmrArmed = true ↔ 1 ≤ s.rtuN
  /-- The count is between 1 and 50001 while the timer is armed (R30, R40). -/
  count : ∀ c, s.rtu.timer = some c → 1 ≤ c.toNat ∧ c.toNat ≤ 50001
  /-- The ASCII invariant (R42). -/
  total : s.asc.lrc.toNat = (s.asc.acc.map BitVec.toNat).sum % 256
  /-- The held character is never the start marker (R43). -/
  held : s.asc.pend ≠ some 0x3A#8
  /-- `ASC.alen` is below `ASC_CAP` where that is set (R198). -/
  room : ∀ m, s.cfg.ascCap = some m → s.ascAlen < m

/-- The reports of the last operation, in order, without their decoded frames. -/
def State.reported (s : State) : List Report :=
  match s.result with
  | .reports ds => ds.map (fun d => d.report)
  | .nothing | .crc _ | .lrc _ | .bytes _ | .frame _ | .codec _ | .dispatched _ => []

/-- Several operations one after another (20_memory.md R89): the state they leave and all their reports, in order. There is
none if one of them has no successor state. -/
def runOps : List Instr → State → Option (State × List Report)
  | [], s => some (s, [])
  | i :: is, s =>
    match exec i s with
    | .next t => (runOps is t).map (fun r => (r.1, t.reported ++ r.2))
    | .fault _ => none
    | .refused _ => none

/-- The window after the append and the lane updates of RTU.RX (41_rtu_sync.md R163, R164): every lane takes the byte, and
the new entry's lane has taken its own. -/
def received (win : List Tracked) (b : Byte) : List Tracked :=
  win.map (fun t => { byte := t.byte, crc := crc16Step t.crc b }) ++ [{ byte := b, crc := crc16Step 0xFFFF#16 b }]

/-- The two checksum bytes of a payload on the RTU wire, low byte first (R77, R116). -/
def trailer (p : List Byte) : List Byte := [loByte (crc16 p), hiByte (crc16 p)]

/-- The received bytes that a report of U3 accounts for (R176): those of a `Valid` report with its two stripped bytes. -/
def wireBytes (r : Report) : List Byte :=
  match r.kind with
  | .valid => r.bytes ++ trailer r.bytes
  | .errored | .sent => r.bytes

/-- The byte an operation gives to U3, if it gives one. -/
def rtuByte : Instr → List Byte
  | .rtuRx b => [b]
  | .sysReset | .crcInit | .crcUpd _ | .lrcInit | .lrcUpd _ | .rtuTick | .rtuSend | .ascRx _ | .ascSend => []
  | .decFrame _ | .cmdReserved _ _ => []
  | .cselNone | .decAq | .decBools | .decRegs | .decAb | .decAr | .decAqb | .decAqr => []
  | .fc01 | .fc02 | .fc03 | .fc04 | .fc05 | .fc06 | .fc07 | .fc08 | .fc0F | .fc10 | .fc11 => []
  | .fc81 | .fc82 | .fc83 | .fc84 | .fc85 | .fc86 | .fc87 | .fc88 | .fc8F | .fc90 | .fc91 => []
  | .fcUnknown _ => []

/-- The octets of the hex digits and their values, as 30_encoding.md R115 lists them. -/
def HexDigit (c : Byte) (v : Nat) : Prop :=
  (0x30 ≤ c.toNat ∧ c.toNat ≤ 0x39 ∧ v = c.toNat - 0x30) ∨
  (0x41 ≤ c.toNat ∧ c.toNat ≤ 0x46 ∧ v = c.toNat - 0x41 + 10) ∨
  (0x61 ≤ c.toNat ∧ c.toNat ≤ 0x66 ∧ v = c.toNat - 0x61 + 10)

/-- The operation RTU.TIMEOUT of the abstraction of 60_exceptions.md R313: it may occur while the timer is armed and performs
the flush of R171. It is not an operation of the hardware. -/
def rtuTimeout (s : State) : State :=
  { s with
    rtu := { win := [], timer := none }
    result := .reports ((if s.rtu.win = [] then [] else [Report.mk .errored (winBytes s.rtu.win)]).map
      (fun r => { report := r, frame := decodeFrame r.kind r.bytes s.lines.fmtSel })) }

end Sys2Proof.Machine
end

