-- ==== Sys2Proof/Certificates/Slice0/Obligations.lean ====
section
/-! DEFINITION. The statements for the provers. Each says which rule of spec/ it formalises. -/

open Sys2Proof Sys2Proof.Machine

/-! Encoding. -/

/-- Words written out from 30_encoding.md R120, R124, R125 and from the programs of 95_test_vectors.md. -/
def Obligations.SpecWordsDecode : Prop :=
  decode (.cmd 0x0000#13) = .sysReset ∧ decode (.cmd 0x0100#13) = .crcInit ∧ decode (.cmd 0x02DD#13) = .crcUpd 0xDD#8 ∧
  decode (.cmd 0x0300#13) = .lrcInit ∧ decode (.cmd 0x04E4#13) = .lrcUpd 0xE4#8 ∧ decode (.cmd 0x0898#13) = .rtuRx 0x98#8 ∧
  decode (.cmd 0x0900#13) = .rtuTick ∧ decode (.cmd 0x0A00#13) = .rtuSend ∧ decode (.cmd 0x103A#13) = .ascRx 0x3A#8 ∧
  decode (.cmd 0x1100#13) = .ascSend ∧ decode (.cmd 0x1802#13) = .decFrame 2#2 ∧
  decode (.cmd 0x1F00#13) = .cmdReserved 0x1F#5 0x00#8 ∧
  decode (.csel 0#3) = .cselNone ∧ decode (.csel 3#3) = .decRegs ∧ decode (.csel 7#3) = .decAqr ∧
  decode (.fc 0x01#8) = .fc01 ∧ decode (.fc 0x10#8) = .fc10 ∧ decode (.fc 0x91#8) = .fc91 ∧
  decode (.fc 0x2B#8) = .fcUnknown 0x2B#8

/-- Decoding an encoded instruction gives it back, for every row of the table and every value of every operand (R119, R120,
R124, R125). -/
def Obligations.DecodeEncodeRoundTrip : Prop :=
  ∀ i : Instr, (i.wellFormed = true ∨ i = .decFrame 3#2) → decode (encode i) = i

/-- `cmd[12:8]` selects the operation and `cmd[7:0]` is its operand, ignored where it takes none (R119, R120). -/
def Obligations.OpcodeFieldsDecode : Prop :=
  ∀ b : Byte,
    decode (.cmd (0x00#5 ++ b)) = .sysReset ∧ decode (.cmd (0x01#5 ++ b)) = .crcInit ∧
    decode (.cmd (0x02#5 ++ b)) = .crcUpd b ∧ decode (.cmd (0x03#5 ++ b)) = .lrcInit ∧
    decode (.cmd (0x04#5 ++ b)) = .lrcUpd b ∧ decode (.cmd (0x08#5 ++ b)) = .rtuRx b ∧
    decode (.cmd (0x09#5 ++ b)) = .rtuTick ∧ decode (.cmd (0x0A#5 ++ b)) = .rtuSend ∧
    decode (.cmd (0x10#5 ++ b)) = .ascRx b ∧ decode (.cmd (0x11#5 ++ b)) = .ascSend ∧
    decode (.cmd (0x18#5 ++ b)) = .decFrame (b.extractLsb' 0 2)

/-- R122: exactly the `op` values 0x05 to 0x07, 0x0B to 0x0F, 0x12 to 0x17 and 0x19 to 0x1F are reserved; a reserved command
has no successor state, and neither has DEC.FRAME with tag kind 3. -/
def Obligations.ReservedCommandsRefused : Prop :=
  (∀ (op : BitVec 5) (b : Byte),
    ((0x05 ≤ op.toNat ∧ op.toNat ≤ 0x07) ∨ (0x0B ≤ op.toNat ∧ op.toNat ≤ 0x0F) ∨ (0x12 ≤ op.toNat ∧ op.toNat ≤ 0x17) ∨
      (0x19 ≤ op.toNat ∧ op.toNat ≤ 0x1F)) ↔
    decode (.cmd (op ++ b)) = .cmdReserved op b) ∧
  (∀ (op : BitVec 5) (b : Byte) (s : State), exec (.cmdReserved op b) s = .refused (.reservedCommand op)) ∧
  (∀ s : State, exec (.decFrame 3#2) s = .refused .reservedTag)

/-- A step presents the next transaction, its word and the lines it samples, and runs the decoded operation on it (R89, R121);
with no transaction to come nothing happens (R33: "it does nothing between operations"). -/
def Obligations.StepRunsDecodedOperation : Prop :=
  (∀ (s : State) (w : OpWord) (l : Lines) (rest : List Transaction), s.pending = { word := w, lines := l } :: rest →
    step s = exec (decode w) { s with lines := l, pending := rest }) ∧
  (∀ s : State, s.pending = [] → step s = .next s)

/-! U1 and U2. -/

/-- R140: CRC.INIT sets `CK.crc` to 0xFFFF, returns nothing, and changes nothing else; `crc_zero` becomes 0. -/
def Obligations.CrcInitEffect : Prop :=
  (∀ b : Byte, decode (.cmd (0x01#5 ++ b)) = .crcInit) ∧
  ∀ s : State,
    exec .crcInit s = .next { s with ck := { s.ck with crc := 0xFFFF#16 }, result := .nothing } ∧ crcZero 0xFFFF#16 = false

/-- R141: CRC.UPD puts the byte into the low 8 bits and iterates eight times; the new accumulator is stored and returned,
`crc_zero` is whether it is 0, and nothing else changes. -/
def Obligations.CrcUpdEffect : Prop :=
  (∀ b : Byte, decode (.cmd (0x02#5 ++ b)) = .crcUpd b) ∧
  (∀ (s : State) (b : Byte),
    let c := (fun c : Half => if c.getLsbD 0 then (c >>> 1) ^^^ 0xA001#16 else c >>> 1)^[8] (s.ck.crc ^^^ b.zeroExtend 16)
    exec (.crcUpd b) s = .next { s with ck := { s.ck with crc := c }, result := .crc c } ∧
      (crcZero c = true ↔ c = 0#16)) ∧
  crc16Step 0x0000#16 0x00#8 = 0x0000#16 ∧ crc16Step 0x0000#16 0x01#8 = 0xC0C1#16 ∧
  crc16Step 0xFFFF#16 0xFF#8 = 0x00FF#16 ∧ crc16Step 0x00FF#16 0xFF#8 = 0x0000#16 ∧
  crc16Step 0xFFFF#16 0x00#8 = 0x40BF#16 ∧ crc16Step 0xFFFF#16 0x04#8 = 0x83BE#16

/-- R144: LRC.INIT sets `CK.lrc` to 0, returns nothing, and changes nothing else; `lrc_zero` becomes 1. -/
def Obligations.LrcInitEffect : Prop :=
  (∀ b : Byte, decode (.cmd (0x03#5 ++ b)) = .lrcInit) ∧
  ∀ s : State,
    exec .lrcInit s = .next { s with ck := { s.ck with lrc := 0x00#8 }, result := .nothing } ∧ lrcZero 0x00#8 = true

/-- R145: LRC.UPD adds modulo 256; the new accumulator is stored and returned, `lrc_zero` is whether it is 0, and nothing else
changes. -/
def Obligations.LrcUpdEffect : Prop :=
  (∀ b : Byte, decode (.cmd (0x04#5 ++ b)) = .lrcUpd b) ∧
  ∀ (s : State) (b : Byte), ∃ l : Byte,
    l.toNat = (s.ck.lrc.toNat + b.toNat) % 256 ∧
    exec (.lrcUpd b) s = .next { s with ck := { s.ck with lrc := l }, result := .lrc l } ∧
    (lrcZero l = true ↔ l.toNat = 0)

/-- R142 (derived there from R141): a message with its trailer, low byte first, brings the accumulator to zero, because feeding
the low byte leaves the high byte. -/
def Obligations.CrcResidueIsZero : Prop :=
  (∀ c : Half, crc16Step c (c.extractLsb' 0 8) = (c.extractLsb' 8 8).zeroExtend 16) ∧
  ∀ p : List Byte, crc16 (p ++ [(crc16 p).extractLsb' 0 8, (crc16 p).extractLsb' 8 8]) = 0x0000#16

/-- R149 (derived there from R141): `crc16_step` is linear over exclusive or, and two accumulators that take the same bytes
differ by what their difference becomes under that many zero bytes. -/
def Obligations.CrcStepIsLinear : Prop :=
  (∀ (x y : Half) (a b : Byte), crc16Step (x ^^^ y) (a ^^^ b) = crc16Step x a ^^^ crc16Step y b) ∧
  (∀ n : Nat, crc16From 0x0000#16 (List.replicate n 0x00#8) = 0x0000#16) ∧
  ∀ (x y : Half) (bs : List Byte),
    crc16From x bs ^^^ crc16From y bs = crc16From (x ^^^ y) (List.replicate bs.length 0x00#8)

/-- Derived from R141 (and used by R325): for a fixed byte the step is a bijection of the accumulator, and the only two bytes
that bring a message's CRC to zero are its trailer. -/
def Obligations.CrcTrailerIsUnique : Prop :=
  (∀ b : Byte, Function.Bijective (fun c : Half => crc16Step c b)) ∧
  ∀ (p : List Byte) (x y : Byte),
    crc16 (p ++ [x, y]) = 0x0000#16 ↔ x = (crc16 p).extractLsb' 0 8 ∧ y = (crc16 p).extractLsb' 8 8

/-- R146, R147: the accumulator over a payload and its check byte is zero exactly when their sum is 0 modulo 256, and the
check byte a sender appends is `(256 - (sum mod 256)) mod 256`. -/
def Obligations.LrcCheckByte : Prop :=
  ∀ (p : List Byte) (l : Byte),
    (lrcZero (lrcSum (p ++ [l])) = true ↔ ((p.map BitVec.toNat).sum + l.toNat) % 256 = 0) ∧
    (lrcOf p).toNat = (256 - (p.map BitVec.toNat).sum % 256) % 256 ∧
    lrcSum (p ++ [lrcOf p]) = 0x00#8

/-! U3. -/

/-- R162, R148(d): the load value is `1 + ceil(50000 / baud)`, it fits the 16-bit count, and it lies between 2 and 50001. -/
def Obligations.TimerLoadValue : Prop :=
  (∀ baud : BitVec 32, baud ≠ 0#32 →
    (timerLoad baud).toNat = 1 + (50000 + baud.toNat - 1) / baud.toNat ∧
    2 ≤ (timerLoad baud).toNat ∧ (timerLoad baud).toNat ≤ 50001 ∧
    ((timerLoad baud).toNat = 2 ↔ 50000 ≤ baud.toNat)) ∧
  timerLoad 300#32 = 168#16 ∧ timerLoad 9600#32 = 7#16 ∧ timerLoad 19200#32 = 4#16 ∧ timerLoad 115200#32 = 2#16 ∧
  timerLoad 49999#32 = 3#16 ∧ timerLoad 1#32 = 50001#16

/-- R165, R166, R301: when the lowest eligible offset whose lane reads zero is `i`, the bytes before it, if any, are reported
`Errored`, then the candidate without its last two bytes `Valid`, each decoded; the window is cleared, the timer cancelled, and
nothing else changes. -/
def Obligations.RtuRxMatch : Prop :=
  ∀ (s : State) (b : Byte) (i : Nat),
    let win := received s.rtu.win b
    let bytes := winBytes s.rtu.win ++ [b]
    s.lines.baud ≠ 0#32 →
    i + s.cfg.minMatchLen ≤ bytes.length →
    (∃ t, win[i]? = some t ∧ t.crc = 0x0000#16) →
    (∀ k t, k < i → win[k]? = some t → t.crc ≠ 0x0000#16) →
    exec (.rtuRx b) s = .next { s with
      rtu := { win := [], timer := none }
      result := .reports
        (((if 0 < i then [Report.mk .errored (bytes.take i)] else []) ++
            [Report.mk .valid ((bytes.drop i).take (bytes.length - i - 2))]).map
          (fun r => { report := r, frame := decodeFrame r.kind r.bytes s.lines.fmtSel })) }

/-- R167, R168, R303: with no zero lane at an eligible offset the byte stays in the window and the timer runs from
`1 + ceil(50000 / baud)`; a window above the ceiling reports its oldest batch `Errored` and keeps the rest with its lanes;
nothing else changes. -/
def Obligations.RtuRxWithoutMatch : Prop :=
  ∀ (s : State) (b : Byte),
    let win := received s.rtu.win b
    let bytes := winBytes s.rtu.win ++ [b]
    let load := BitVec.ofNat 16 (1 + (50000 + s.lines.baud.toNat - 1) / s.lines.baud.toNat)
    s.lines.baud ≠ 0#32 →
    (∀ k t, k + s.cfg.minMatchLen ≤ bytes.length → win[k]? = some t → t.crc ≠ 0x0000#16) →
    (s.cfg.winCeiling < bytes.length →
      exec (.rtuRx b) s = .next { s with
        rtu := { win := win.drop s.cfg.evictBatch, timer := some load }
        result := .reports
          [{ report := Report.mk .errored (bytes.take s.cfg.evictBatch)
             frame := decodeFrame .errored (bytes.take s.cfg.evictBatch) s.lines.fmtSel }] }) ∧
    (bytes.length ≤ s.cfg.winCeiling →
      exec (.rtuRx b) s = .next { s with rtu := { win := win, timer := some load }, result := .reports [] })

/-- R169 (derived there): what one RTU.RX reports, with the bounds of every report, and the bounds of the window afterwards. -/
def Obligations.RtuRxBounds : Prop :=
  ∀ (s : State) (b : Byte), s.Inv → s.lines.baud ≠ 0#32 →
    ∃ t, exec (.rtuRx b) s = .next t ∧
      (t.reported = [] ∨
       (∃ v, t.reported = [Report.mk .valid v] ∧
          s.cfg.minMatchLen ≤ v.length + 2 ∧ v.length + 2 ≤ s.cfg.winCeiling + 1) ∨
       (∃ g v, t.reported = [Report.mk .errored g, Report.mk .valid v] ∧
          1 ≤ g.length ∧ g.length + s.cfg.minMatchLen ≤ s.cfg.winCeiling + 1 ∧
          s.cfg.minMatchLen ≤ v.length + 2 ∧ v.length + 2 ≤ s.cfg.winCeiling + 1) ∨
       (∃ e, t.reported = [Report.mk .errored e] ∧ e.length = s.cfg.evictBatch)) ∧
      t.rtuN ≤ s.cfg.winCeiling ∧ (t.tmrArmed = true ↔ 1 ≤ t.rtuN)

/-- R45, R310: RTU.RX with `baud = 0` has no successor state. -/
def Obligations.RtuRxZeroBaudRefused : Prop :=
  ∀ (s : State) (b : Byte), s.lines.baud = 0#32 → exec (.rtuRx b) s = .refused .baudZero

/-- R170, R171: with the timer not armed RTU.TICK does nothing; an armed count above 1 goes down by one; the count 1 disarms
the timer and flushes the window, reporting it `Errored` if it is not empty. Nothing else changes. -/
def Obligations.RtuTickEffect : Prop :=
  (∀ b : Byte, decode (.cmd (0x09#5 ++ b)) = .rtuTick) ∧
  ∀ s : State,
    (s.rtu.timer = none → exec .rtuTick s = .next { s with result := .reports [] }) ∧
    (∀ c : BitVec 16, s.rtu.timer = some c → 2 ≤ c.toNat → ∃ c' : BitVec 16, c'.toNat = c.toNat - 1 ∧
      exec .rtuTick s = .next { s with rtu := { s.rtu with timer := some c' }, result := .reports [] }) ∧
    (s.rtu.timer = some 1#16 → s.rtu.win = [] →
      exec .rtuTick s = .next { s with rtu := { win := [], timer := none }, result := .reports [] }) ∧
    (s.rtu.timer = some 1#16 → s.rtu.win ≠ [] →
      exec .rtuTick s = .next { s with
        rtu := { win := [], timer := none }
        result := .reports [{ report := Report.mk .errored (winBytes s.rtu.win)
                              frame := decodeFrame .errored (winBytes s.rtu.win) s.lines.fmtSel }] })

/-- R302, R172: with `c` ticks to go, fewer than `c` ticks report nothing and only count down; from the `c`-th on, however
many, exactly one report has been made, of the whole window, and U3 is empty. -/
def Obligations.SilenceFlushesOnce : Prop :=
  ∀ (s : State) (c : BitVec 16), s.rtu.timer = some c → 1 ≤ c.toNat → s.rtu.win ≠ [] → ∀ k : Nat,
    (k < c.toNat → ∃ t, runOps (List.replicate k .rtuTick) s = some (t, []) ∧
      t.rtu = { win := s.rtu.win, timer := some (BitVec.ofNat 16 (c.toNat - k)) } ∧ t.ck = s.ck ∧ t.asc = s.asc) ∧
    (c.toNat ≤ k → ∃ t,
      runOps (List.replicate k .rtuTick) s = some (t, [Report.mk .errored (winBytes s.rtu.win)]) ∧
      t.rtu = { win := [], timer := none } ∧ t.ck = s.ck ∧ t.asc = s.asc)

/-- R313, R172 (derived there): every RTU.TICK is either invisible to the abstraction without a count, leaving the window and
whether the timer is armed, and reporting nothing, or it is that abstraction's timeout, enabled because the timer is armed. -/
def Obligations.TickRefinesTimeout : Prop :=
  ∀ s : State, ∃ t, exec .rtuTick s = .next t ∧
    ((∃ u : Rtu, u.win = s.rtu.win ∧ u.timer.isSome = s.rtu.timer.isSome ∧
        t = { s with rtu := u, result := .reports [] }) ∨
     (s.tmrArmed = true ∧ t = rtuTimeout s))

/-- R173: RTU.SEND returns the payload, then the low byte of its CRC, then the high byte; nothing changes. -/
def Obligations.RtuSendEffect : Prop :=
  (∀ b : Byte, decode (.cmd (0x0A#5 ++ b)) = .rtuSend) ∧
  ∀ s : State, (∀ m, s.cfg.sendMax = some m → s.lines.opb.length ≤ m) →
    exec .rtuSend s = .next { s with
      result := .bytes (s.lines.opb ++
        [(crc16 s.lines.opb).extractLsb' 0 8, (crc16 s.lines.opb).extractLsb' 8 8]) }

/-- R176, R324, R316 (derived there): over any sequence of RTU.RX and RTU.TICK, all reports' bytes in order, each `Valid`
report followed by its two stripped bytes, and then the bytes still in the window, are the bytes that were in the window and
then the bytes received. -/
def Obligations.RtuAccounting : Prop :=
  ∀ (ops : List Instr) (s u : State) (rs : List Report), s.Inv →
    (∀ i ∈ ops, (∃ b, i = .rtuRx b) ∨ i = .rtuTick) →
    runOps ops s = some (u, rs) →
    rs.flatMap wireBytes ++ winBytes u.rtu.win = winBytes s.rtu.win ++ ops.flatMap rtuByte

/-- R174 (derived there): from an empty window, a frame of at least `MIN_MATCH_LEN` and at most `WIN_CEILING + 1` bytes with no
earlier match inside gives exactly one report, at its last byte, `Valid` of the payload; and every sequence whose CRC is zero
is the frame of what is left when its last two bytes are stripped. -/
def Obligations.RtuRoundTrip : Prop :=
  (∀ (s : State) (p : List Byte),
    let b := p ++ trailer p
    s.rtu.win = [] → s.lines.baud ≠ 0#32 →
    s.cfg.minMatchLen ≤ b.length → b.length ≤ s.cfg.winCeiling + 1 →
    (∀ i e, e < b.length → i + s.cfg.minMatchLen ≤ e → crc16 ((b.take e).drop i) ≠ 0x0000#16) →
    (∃ t, runOps (b.dropLast.map .rtuRx) s = some (t, [])) ∧
    ∃ u, runOps (b.map .rtuRx) s = some (u, [Report.mk .valid p]) ∧ u.rtu = { win := [], timer := none }) ∧
  ∀ b : List Byte, 2 ≤ b.length → crc16 b = 0x0000#16 →
    b.take (b.length - 2) ++ trailer (b.take (b.length - 2)) = b

/-- R325 (derived there), for every damage that keeps the length, a single flipped bit among them: bytes that differ from a
frame, fed from an empty window and followed by any number of ticks, never report the frame's own payload as `Valid`. A
shorter candidate inside them may still be reported `Valid` (R177); the statement does not shut that out. -/
def Obligations.DamagedFrameNeverYieldsOriginalPayload : Prop :=
  ∀ (s : State) (p b : List Byte) (k : Nat), s.cfg.legal = true → s.rtu.win = [] → s.lines.baud ≠ 0#32 →
    b.length = (p ++ trailer p).length → b ≠ p ++ trailer p →
    ∃ u rs, runOps (b.map .rtuRx ++ List.replicate k .rtuTick) s = some (u, rs) ∧ Report.mk .valid p ∉ rs

/-! U4. -/

/-- R192: the start marker reports everything accumulated `Errored`, nothing if nothing was, and resets U4, at either position
of a pair; a held character is dropped. Nothing else changes. -/
def Obligations.AscStartMarker : Prop :=
  ∀ s : State,
    exec (.ascRx 0x3A#8) s = .next { s with
      asc := { acc := [], lrc := 0x00#8, pend := none }
      result := .reports ((if s.asc.acc = [] then [] else [Report.mk .errored s.asc.acc]).map
        (fun r => { report := r, frame := decodeFrame r.kind r.bytes s.lines.fmtSel })) }

/-- R193: any character but the start marker that arrives with none held is held, and nothing else happens. -/
def Obligations.AscFirstOfPair : Prop :=
  ∀ (s : State) (c : Byte), c ≠ 0x3A#8 → s.asc.pend = none →
    exec (.ascRx c) s = .next { s with asc := { s.asc with pend := some c }, result := .reports [] }

/-- R194, R115, R198: a pair of hex characters appends one byte, the first the high nibble, and folds it into the LRC; if the
buffer becomes full it is reported `Errored` and reset. Nothing else changes. -/
def Obligations.AscDataByte : Prop :=
  ∀ (s : State) (p c : Byte) (h l : Nat), s.asc.pend = some p → HexDigit p h → HexDigit c l →
    ∃ v : Byte, v.toNat = 16 * h + l ∧
      (s.cfg.ascCap ≠ some (s.asc.acc.length + 1) → ∃ lrc : Byte, lrc.toNat = (s.asc.lrc.toNat + v.toNat) % 256 ∧
        exec (.ascRx c) s = .next { s with
          asc := { acc := s.asc.acc ++ [v], lrc := lrc, pend := none }, result := .reports [] }) ∧
      (s.cfg.ascCap = some (s.asc.acc.length + 1) →
        exec (.ascRx c) s = .next { s with
          asc := { acc := [], lrc := 0x00#8, pend := none }
          result := .reports [{ report := Report.mk .errored (s.asc.acc ++ [v])
                                frame := decodeFrame .errored (s.asc.acc ++ [v]) s.lines.fmtSel }] })

/-- R195, R196: CR LF drops the last decoded byte and reports the rest, `Valid` when the running LRC is zero and `Errored`
otherwise; with nothing accumulated it reports nothing. U4 is reset, nothing else changes. -/
def Obligations.AscTerminator : Prop :=
  ∀ s : State, s.asc.pend = some 0x0D#8 →
    (s.asc.acc = [] →
      exec (.ascRx 0x0A#8) s = .next { s with
        asc := { acc := [], lrc := 0x00#8, pend := none }, result := .reports [] }) ∧
    (∀ (payload : List Byte) (check : Byte) (kind : ReportKind), s.asc.acc = payload ++ [check] →
      (s.asc.lrc = 0x00#8 ∧ kind = .valid ∨ s.asc.lrc ≠ 0x00#8 ∧ kind = .errored) →
      exec (.ascRx 0x0A#8) s = .next { s with
        asc := { acc := [], lrc := 0x00#8, pend := none }
        result := .reports [{ report := Report.mk kind payload
                              frame := decodeFrame kind payload s.lines.fmtSel }] })

/-- R197: a pair that is neither CR LF nor two hex characters is discarded, everything accumulated is reported `Errored`,
nothing if nothing was, and U4 is reset. Nothing else changes. -/
def Obligations.AscBadPair : Prop :=
  ∀ (s : State) (p c : Byte), s.asc.pend = some p → c ≠ 0x3A#8 → ¬(p = 0x0D#8 ∧ c = 0x0A#8) →
    ((∀ h, ¬HexDigit p h) ∨ (∀ l, ¬HexDigit c l)) →
    exec (.ascRx c) s = .next { s with
      asc := { acc := [], lrc := 0x00#8, pend := none }
      result := .reports ((if s.asc.acc = [] then [] else [Report.mk .errored s.asc.acc]).map
        (fun r => { report := r, frame := decodeFrame r.kind r.bytes s.lines.fmtSel })) }

/-- R200, R199 (derived there): every ASC.RX completes with at most one report and touches U4 only; RTU.TICK never touches
U4. -/
def Obligations.AscRxReportsAtMostOne : Prop :=
  (∀ (s : State) (c : Byte), ∃ u ds, exec (.ascRx c) s = .next { s with asc := u, result := .reports ds } ∧ ds.length ≤ 1) ∧
  ∀ s : State, ∃ u ds, exec .rtuTick s = .next { s with rtu := u, result := .reports ds } ∧ ds.length ≤ 1

/-- R115, R203: the octets that are hex characters and their values, upper and lower case alike; a pair of them is a byte, the
first the high nibble; the output is upper case and reads back as the byte. -/
def Obligations.HexCharacterCodes : Prop :=
  (∀ (c : Byte) (v : BitVec 4), hexVal c = some v ↔ HexDigit c v.toNat) ∧
  (∀ (p c : Byte) (h l : Nat), HexDigit p h → HexDigit c l → ∃ v : Byte, v.toNat = 16 * h + l ∧ hexPair p c = some v) ∧
  (∀ v : Byte, ∃ h l : Byte, hex2 v = [h, l] ∧ HexDigit h (v.toNat / 16) ∧ HexDigit l (v.toNat % 16) ∧
    h.toNat ≤ 0x46 ∧ l.toNat ≤ 0x46 ∧ hexPair h l = some v)

/-- R201: ASC.SEND returns `:`, the payload and its check byte in hex, CR LF: `2 * len + 5` octets; nothing changes. -/
def Obligations.AscSendEffect : Prop :=
  (∀ b : Byte, decode (.cmd (0x11#5 ++ b)) = .ascSend) ∧
  ∀ s : State, (∀ m, s.cfg.sendMax = some m → s.lines.opb.length ≤ m) →
    ∃ l : Byte, l.toNat = (256 - (s.lines.opb.map BitVec.toNat).sum % 256) % 256 ∧
      ∃ out, out = [0x3A#8] ++ s.lines.opb.flatMap hex2 ++ hex2 l ++ [0x0D#8, 0x0A#8] ∧
        out.length = 2 * s.lines.opb.length + 5 ∧
        exec .ascSend s = .next { s with result := .bytes out }

/-- The property of R195 and R146 on a whole frame: from any state, `:`, a payload and a check byte in hex, CR LF leave U4 reset
and report, after what was accumulated before, the payload: `Valid` exactly when the sum of payload and check byte is 0 modulo
256, `Errored` otherwise. -/
def Obligations.AscFrameVerdict : Prop :=
  ∀ (s : State) (p : List Byte) (l : Byte), (∀ m, s.cfg.ascCap = some m → p.length + 1 < m) →
    ∃ u, runOps (([0x3A#8] ++ p.flatMap hex2 ++ hex2 l ++ [0x0D#8, 0x0A#8]).map .ascRx) s =
        some (u, (if s.asc.acc = [] then [] else [Report.mk .errored s.asc.acc]) ++
          [Report.mk (if ((p.map BitVec.toNat).sum + l.toNat) % 256 = 0 then .valid else .errored) p]) ∧
      u.asc = { acc := [], lrc := 0x00#8, pend := none } ∧ u.rtu = s.rtu ∧ u.ck = s.ck

/-- R202 (derived there): what ASC.SEND returns, fed to an idle U4, gives exactly one report, at the final LF, `Valid` of the
payload. -/
def Obligations.AscRoundTrip : Prop :=
  ∀ (s : State) (p out : List Byte), s.asc.acc = [] → s.asc.pend = none →
    (∀ m, s.cfg.ascCap = some m → p.length + 1 < m) →
    (∃ r t, exec .ascSend r = .next t ∧ r.lines.opb = p ∧ t.result = .bytes out) →
    (∃ t, runOps (out.dropLast.map .ascRx) s = some (t, [])) ∧
    ∃ u, runOps (out.map .ascRx) s = some (u, [Report.mk .valid p]) ∧ u.asc = { acc := [], lrc := 0x00#8, pend := none }

/-- The model's choice (log 9), not a rule of the spec: where `SEND_MAX` is set, a longer payload is refused. -/
def Obligations.SendBoundRefused : Prop :=
  ∀ (s : State) (m : Nat), s.cfg.sendMax = some m → m < s.lines.opb.length →
    exec .rtuSend s = .refused .payloadTooLong ∧ exec .ascSend s = .refused .payloadTooLong

/-! U5. -/

/-- R260, R271: DEC.AQ and DEC.AR read two big-endian 16-bit fields from exactly 4 bytes; any other length fails with
`LEN_NE(4, L)`. No state changes. -/
def Obligations.FixedCodecs : Prop :=
  decode (.csel 1#3) = .decAq ∧ decode (.csel 5#3) = .decAr ∧
  ∀ s : State,
    (∀ a b c d : Byte, s.lines.opb = [a, b, c, d] → ∃ x y : Half,
      x.toNat = a.toNat * 256 + b.toNat ∧ y.toNat = c.toNat * 256 + d.toNat ∧
      exec .decAq s = .next { s with result := .codec (some (.ok (.aq x y))) } ∧
      exec .decAr s = .next { s with result := .codec (some (.ok (.ar x y))) }) ∧
    (s.lines.opb.length ≠ 4 →
      exec .decAq s = .next { s with result := .codec (some (.err (DecErr.mk .lenNe 4 s.lines.opb.length))) } ∧
      exec .decAr s = .next { s with result := .codec (some (.err (DecErr.mk .lenNe 4 s.lines.opb.length))) })

/-- R262, R113: DEC.BOOLS. Boolean `j` is bit `7 - (j mod 8)` of packed byte `j div 8`, all `8n` of them; a length that is not
`1 + n` fails with `LEN_DECL`. No state changes. -/
def Obligations.BoolsCodec : Prop :=
  decode (.csel 2#3) = .decBools ∧
  ∀ s : State,
    (s.lines.opb = [] → exec .decBools s = .next { s with result := .codec (some (.err (DecErr.mk .lenDecl 1 0))) }) ∧
    ∀ (n : Byte) (r : List Byte), s.lines.opb = n :: r →
      (r.length ≠ n.toNat → exec .decBools s = .next { s with
        result := .codec (some (.err (DecErr.mk .lenDecl (1 + n.toNat) s.lines.opb.length))) }) ∧
      (r.length = n.toNat → ∃ bs : List Bool, bs.length = 8 * n.toNat ∧
        (∀ j, j < 8 * n.toNat → bs[j]? = some ((r.getD (j / 8) 0x00#8).getLsbD (7 - j % 8))) ∧
        exec .decBools s = .next { s with result := .codec (some (.ok (.bools n bs))) })

/-- R266: DEC.REGS tests the length, then the parity of the count, then each selected width, lowest bit first; if all pass it
returns one array per selected reading, in bit order. No state changes. -/
def Obligations.RegsCodecTests : Prop :=
  decode (.csel 3#3) = .decRegs ∧
  ∀ s : State,
    (s.lines.opb = [] → exec .decRegs s = .next { s with result := .codec (some (.err (DecErr.mk .lenDecl 1 0))) }) ∧
    ∀ (n : Byte) (r : List Byte), s.lines.opb = n :: r →
      (r.length ≠ n.toNat → exec .decRegs s = .next { s with
        result := .codec (some (.err (DecErr.mk .lenDecl (1 + n.toNat) s.lines.opb.length))) }) ∧
      (r.length = n.toNat → n.toNat % 2 = 1 →
        exec .decRegs s = .next { s with result := .codec (some (.err (DecErr.mk .oddCount 2 n.toNat))) }) ∧
      (∀ f : Fmt, r.length = n.toNat → n.toNat % 2 = 0 → s.lines.fmtSel.getLsbD f.bit = true → n.toNat % f.width ≠ 0 →
        (∀ g : Fmt, g.bit < f.bit → s.lines.fmtSel.getLsbD g.bit = true → n.toNat % g.width = 0) →
        exec .decRegs s = .next { s with result := .codec (some (.err (DecErr.mk .widthDiv f.width n.toNat))) }) ∧
      (r.length = n.toNat → n.toNat % 2 = 0 →
        (∀ f : Fmt, s.lines.fmtSel.getLsbD f.bit = true → n.toNat % f.width = 0) →
        exec .decRegs s = .next { s with
          result := .codec (some (.ok (.regs n
            (([Fmt.u16, .i16, .u32, .i32, .f32, .u64, .i64, .f64].filter
              (fun f => s.lines.fmtSel.getLsbD f.bit)).map (fun f => readAs f r))))) })

/-- R114, R267 (the signed and float readings are general knowledge there, log 16): element `j` of a reading of width `w` is
the big-endian number of its `w` bytes, read unsigned, as two's complement, or as the unchanged bits of a float. -/
def Obligations.RegisterReadings : Prop :=
  ∀ (f : Fmt) (r : List Byte) (j : Nat),
    let raw := ∑ t ∈ Finset.range f.width, (r.getD (f.width * j + t) 0x00#8).toNat * 256 ^ (f.width - 1 - t)
    (readAs f r).elems.length = r.length / f.width ∧
    (f.width * (j + 1) ≤ r.length → ∃ e, (readAs f r).elems[j]? = some e ∧
      (f = .u16 ∨ f = .u32 ∨ f = .u64 → e = .unsigned raw) ∧
      (f = .i16 ∨ f = .i32 ∨ f = .i64 →
        e = .signed (if raw < 2 ^ (8 * f.width - 1) then (raw : Int) else (raw : Int) - 2 ^ (8 * f.width))) ∧
      (f = .f32 → ∃ bits : BitVec 32, bits.toNat = raw ∧ e = .float32 bits) ∧
      (f = .f64 → ∃ bits : BitVec 64, bits.toNat = raw ∧ e = .float64 bits))

/-- R81 (derived there): the same bytes read at two widths agree: U32 element `j` is `U16[2j] * 65536 + U16[2j + 1]`, and U64
element `j` is `U32[2j] * 2^32 + U32[2j + 1]`. -/
def Obligations.WideReadingsConcatenate : Prop :=
  ∀ (r : List Byte) (j : Nat),
    (4 * (j + 1) ≤ r.length → ∃ x y,
      (readAs .u16 r).elems[2 * j]? = some (.unsigned x) ∧ (readAs .u16 r).elems[2 * j + 1]? = some (.unsigned y) ∧
      (readAs .u32 r).elems[j]? = some (.unsigned (x * 65536 + y))) ∧
    (8 * (j + 1) ≤ r.length → ∃ x y,
      (readAs .u32 r).elems[2 * j]? = some (.unsigned x) ∧ (readAs .u32 r).elems[2 * j + 1]? = some (.unsigned y) ∧
      (readAs .u64 r).elems[j]? = some (.unsigned (x * 2 ^ 32 + y)))

/-- R269, R112, R128: DEC.AB. 0x0000 is false, 0xFF00 and 0x00FF are true, any other value fails with `BOOL_VAL`; the length is
tested before the value. No state changes. -/
def Obligations.CoilCodec : Prop :=
  decode (.csel 4#3) = .decAb ∧
  ∀ s : State,
    (s.lines.opb.length ≠ 4 →
      exec .decAb s = .next { s with result := .codec (some (.err (DecErr.mk .lenNe 4 s.lines.opb.length))) }) ∧
    ∀ a b c d : Byte, s.lines.opb = [a, b, c, d] → ∃ x : Half, x.toNat = a.toNat * 256 + b.toNat ∧
      (c.toNat * 256 + d.toNat = 0x0000 → exec .decAb s = .next { s with result := .codec (some (.ok (.ab x false))) }) ∧
      (c.toNat * 256 + d.toNat = 0xFF00 ∨ c.toNat * 256 + d.toNat = 0x00FF →
        exec .decAb s = .next { s with result := .codec (some (.ok (.ab x true))) }) ∧
      (c.toNat * 256 + d.toNat ≠ 0x0000 → c.toNat * 256 + d.toNat ≠ 0xFF00 → c.toNat * 256 + d.toNat ≠ 0x00FF →
        exec .decAb s = .next { s with
          result := .codec (some (.err (DecErr.mk .boolVal 0xFF00 (c.toNat * 256 + d.toNat)))) })

/-- R273, R275: the composites fail with `TOO_SHORT(5, L)` on 4 bytes or fewer; otherwise they read AQ from the first 4 bytes
and BOOLS or REGS from the rest, whose error they return unchanged. No state changes. -/
def Obligations.CompositeCodecs : Prop :=
  decode (.csel 6#3) = .decAqb ∧ decode (.csel 7#3) = .decAqr ∧
  ∀ s : State,
    (s.lines.opb.length ≤ 4 →
      exec .decAqb s = .next { s with result := .codec (some (.err (DecErr.mk .tooShort 5 s.lines.opb.length))) } ∧
      exec .decAqr s = .next { s with result := .codec (some (.err (DecErr.mk .tooShort 5 s.lines.opb.length))) }) ∧
    ∀ (a b c d : Byte) (rest : List Byte), s.lines.opb = a :: b :: c :: d :: rest → rest ≠ [] → ∃ x y : Half,
      x.toNat = a.toNat * 256 + b.toNat ∧ y.toNat = c.toNat * 256 + d.toNat ∧
      ((∃ n bs, decodeBools rest = .ok (.bools n bs) ∧
          exec .decAqb s = .next { s with result := .codec (some (.ok (.aqb x y n bs))) }) ∨
       (∃ e, decodeBools rest = .err e ∧ exec .decAqb s = .next { s with result := .codec (some (.err e)) })) ∧
      ((∃ n vs, decodeRegs s.lines.fmtSel rest = .ok (.regs n vs) ∧
          exec .decAqr s = .next { s with result := .codec (some (.ok (.aqr x y n vs))) }) ∨
       (∃ e, decodeRegs s.lines.fmtSel rest = .err e ∧
          exec .decAqr s = .next { s with result := .codec (some (.err e)) }))

/-- R124, R221, R245: the codec that each value of the select runs on the data field; the select 0 gives an absent direction.
No state changes. -/
def Obligations.CodecSelects : Prop :=
  (∀ s : State, exec .cselNone s = .next { s with result := .codec none }) ∧
  ∀ (c : Codec) (s : State), exec (decode (.csel (cselCode (some c)))) s =
    .next { s with result := .codec (some (c.run s.lines.fmtSel s.lines.opb)) }

/-! U6. -/

/-- R220, R126, R221: exactly the 22 listed codes have an entry, 234 have none, and an entry's description index is its code
with bit 7 cleared. -/
def Obligations.RegistryContents : Prop :=
  (∀ fc : Byte, (registry fc).isSome = true ↔
    fc.toNat % 128 ∈ [0x01, 0x02, 0x03, 0x04, 0x05, 0x06, 0x07, 0x08, 0x0F, 0x10, 0x11]) ∧
  ((List.range 256).filter (fun n => (registry (BitVec.ofNat 8 n)).isNone)).length = 234 ∧
  ∀ (fc : Byte) (e : RegEntry), registry fc = some e → e.descIdx.toNat = fc.toNat % 128

/-- R222 to R232 (most codec assignments are general knowledge there, log 15): the dispatch of the eleven base codes. -/
def Obligations.BaseFunctionCodes : Prop :=
  ∀ s : State,
    let d := s.lines.opb
    let f := s.lines.fmtSel
    exec .fc01 s = .next { s with result := .dispatched ⟨true, false, 0x01#7, some (decodeAq d), some (decodeBools d)⟩ } ∧
    exec .fc02 s = .next { s with result := .dispatched ⟨true, false, 0x02#7, some (decodeAq d), some (decodeBools d)⟩ } ∧
    exec .fc03 s = .next { s with result := .dispatched ⟨true, false, 0x03#7, some (decodeAq d), some (decodeRegs f d)⟩ } ∧
    exec .fc04 s = .next { s with result := .dispatched ⟨true, false, 0x04#7, some (decodeAq d), some (decodeRegs f d)⟩ } ∧
    exec .fc05 s = .next { s with result := .dispatched ⟨true, false, 0x05#7, some (decodeAb d), some (decodeAb d)⟩ } ∧
    exec .fc06 s = .next { s with result := .dispatched ⟨true, false, 0x06#7, some (decodeAr d), some (decodeAr d)⟩ } ∧
    exec .fc07 s = .next { s with result := .dispatched ⟨true, false, 0x07#7, none, none⟩ } ∧
    exec .fc08 s = .next { s with result := .dispatched ⟨true, false, 0x08#7, none, none⟩ } ∧
    exec .fc0F s = .next { s with result := .dispatched ⟨true, false, 0x0F#7, some (decodeAqb d), some (decodeAq d)⟩ } ∧
    exec .fc10 s = .next { s with result := .dispatched ⟨true, false, 0x10#7, some (decodeAqr f d), some (decodeAq d)⟩ } ∧
    exec .fc11 s = .next { s with result := .dispatched ⟨true, false, 0x11#7, none, none⟩ }

/-- R233 to R243: the eleven error-flagged codes are known, show `fc_err = 1` and the base code's description, and have no
codec: both directions are absent whatever the data field. No state changes. -/
def Obligations.ErrorFlaggedCodes : Prop :=
  ∀ s : State,
    exec .fc81 s = .next { s with result := .dispatched ⟨true, true, 0x01#7, none, none⟩ } ∧
    exec .fc82 s = .next { s with result := .dispatched ⟨true, true, 0x02#7, none, none⟩ } ∧
    exec .fc83 s = .next { s with result := .dispatched ⟨true, true, 0x03#7, none, none⟩ } ∧
    exec .fc84 s = .next { s with result := .dispatched ⟨true, true, 0x04#7, none, none⟩ } ∧
    exec .fc85 s = .next { s with result := .dispatched ⟨true, true, 0x05#7, none, none⟩ } ∧
    exec .fc86 s = .next { s with result := .dispatched ⟨true, true, 0x06#7, none, none⟩ } ∧
    exec .fc87 s = .next { s with result := .dispatched ⟨true, true, 0x07#7, none, none⟩ } ∧
    exec .fc88 s = .next { s with result := .dispatched ⟨true, true, 0x08#7, none, none⟩ } ∧
    exec .fc8F s = .next { s with result := .dispatched ⟨true, true, 0x0F#7, none, none⟩ } ∧
    exec .fc90 s = .next { s with result := .dispatched ⟨true, true, 0x10#7, none, none⟩ } ∧
    exec .fc91 s = .next { s with result := .dispatched ⟨true, true, 0x11#7, none, none⟩ }

/-- R244: a function code with no entry is no error: both directions are absent, `fc_known = 0`, and `fc_err` still shows bit 7.
No state changes. -/
def Obligations.UnknownFunctionCodes : Prop :=
  ∀ (s : State) (fc : Byte),
    fc.toNat % 128 ∉ [0x01, 0x02, 0x03, 0x04, 0x05, 0x06, 0x07, 0x08, 0x0F, 0x10, 0x11] →
    decode (.fc fc) = .fcUnknown fc ∧
    exec (.fcUnknown fc) s = .next { s with
      result := .dispatched ⟨false, decide (128 ≤ fc.toNat), BitVec.ofNat 7 fc.toNat, none, none⟩ }

/-- R245: presenting a function code alone gives exactly the dispatch that the frame decoder makes of that code. -/
def Obligations.FunctionCodeRowsAgree : Prop :=
  ∀ (s : State) (fc slaveAddr : Byte) (tag : ReportKind), ∃ r : FcResult,
    exec (decode (.fc fc)) s = .next { s with result := .dispatched r } ∧
    decodeFrame tag (slaveAddr :: fc :: s.lines.opb) s.lines.fmtSel =
      { tag := tag, body := some ⟨slaveAddr, fc, r.fcErr, r.descIdx, r.known, r.request, r.response⟩ }

/-- R293, R292 (derived there): a frame has a body exactly when it has two bytes, and then exactly one of four states holds:
both directions absent, both errored, exactly one decoded, both decoded; each of the four occurs. Of R293's examples of the
fourth state this claims none: the one on every 4-byte data field under code 0x05 is not so in the model (log 28). -/
def Obligations.FrameStates : Prop :=
  (∀ (tag : ReportKind) (seg : List Byte) (fmtSel : Byte),
    ((decodeFrame tag seg fmtSel).body = none ↔ seg.length < 2) ∧
    ∀ f, (decodeFrame tag seg fmtSel).body = some f →
      (f.master = none ∧ f.slave = none) ∨
      (∃ e e', f.master = some (.err e) ∧ f.slave = some (.err e')) ∨
      (∃ v e, f.master = some (.ok v) ∧ f.slave = some (.err e)) ∨
      (∃ v e, f.master = some (.err e) ∧ f.slave = some (.ok v)) ∨
      (∃ v v', f.master = some (.ok v) ∧ f.slave = some (.ok v'))) ∧
  (∃ seg f, (decodeFrame .valid seg 0x01#8).body = some f ∧ f.master = none ∧ f.slave = none) ∧
  (∃ seg f e e', (decodeFrame .valid seg 0x01#8).body = some f ∧ f.master = some (.err e) ∧ f.slave = some (.err e')) ∧
  (∃ seg f v e, (decodeFrame .valid seg 0x01#8).body = some f ∧ f.master = some (.ok v) ∧ f.slave = some (.err e)) ∧
  (∃ seg f v v', (decodeFrame .valid seg 0x01#8).body = some f ∧ f.master = some (.ok v) ∧ f.slave = some (.ok v'))

/-- R290, R292, R294: DEC.FRAME with tag kind 0, 1 or 2 returns the decoded frame: no body for fewer than two bytes; otherwise
the address, the code, its bit 7 and bits 6 to 0, and the dispatch of the rest; the tag is copied and decides nothing. No state
changes. -/
def Obligations.DecFrameEffect : Prop :=
  (∀ b : Byte, decode (.cmd (0x18#5 ++ b)) = .decFrame (b.extractLsb' 0 2)) ∧
  ∀ (s : State) (tag : BitVec 2) (kind : ReportKind),
    (tag = 0#2 ∧ kind = .valid ∨ tag = 1#2 ∧ kind = .errored ∨ tag = 2#2 ∧ kind = .sent) →
    (s.lines.opb.length < 2 → exec (.decFrame tag) s = .next { s with result := .frame { tag := kind, body := none } }) ∧
    ∀ (a fc : Byte) (d : List Byte), s.lines.opb = a :: fc :: d →
      exec (.decFrame tag) s = .next { s with
        result := .frame
          { tag := kind
            body := some
              { slaveAddr := a
                funcCode := fc
                fcErr := decide (128 ≤ fc.toNat)
                descIdx := BitVec.ofNat 7 fc.toNat
                fcKnown := (registry fc).isSome
                master := ((registry fc).bind RegEntry.request).map (fun c => c.run s.lines.fmtSel d)
                slave := ((registry fc).bind RegEntry.response).map (fun c => c.run s.lines.fmtSel d) } } }

/-- R118, R295, R296: every report an operation returns has gone through the frame decoder with its own kind and bytes, and no
operation reports `Sent`. -/
def Obligations.StreamReportsDecoded : Prop :=
  ∀ (i : Instr) (s t : State) (ds : List Delivery), exec i s = .next t → t.result = .reports ds →
    ∀ d ∈ ds, d.frame = decodeFrame d.report.kind d.report.bytes s.lines.fmtSel ∧ d.report.kind ≠ .sent

/-! The whole machine. -/

/-- R297: SYS.RESET loads the seeds, empties the window and the buffer, disarms the timer, drops the held character, and
returns nothing; pending bytes are discarded without a report. -/
def Obligations.SysResetEffect : Prop :=
  (∀ b : Byte, decode (.cmd (0x00#5 ++ b)) = .sysReset) ∧
  ∀ s : State, exec .sysReset s = .next { s with
    ck := { crc := 0xFFFF#16, lrc := 0x00#8 }
    rtu := { win := [], timer := none }
    asc := { acc := [], lrc := 0x00#8, pend := none }
    result := .nothing }

/-- R55, R44: the block after power-on, the same as after SYS.RESET, and the status outputs. -/
def Obligations.ResetState : Prop :=
  State.reset.ck = { crc := 0xFFFF#16, lrc := 0x00#8 } ∧ State.reset.rtuN = 0 ∧ State.reset.tmrArmed = false ∧
  State.reset.ascAlen = 0 ∧ State.reset.asc.lrc = 0x00#8 ∧ State.reset.pendV = false ∧
  State.reset.so0 = 0x0FFFF#17 ∧ State.reset.so1 = 0x100#9 ∧ State.reset.so2 = 0#13 ∧
  State.reset.so3 = { alen := 0, pendV := false, lrc := 0x00#8 } ∧
  ∀ s : State, ∃ t, exec .sysReset s = .next t ∧
    t.ck = State.reset.ck ∧ t.rtu = State.reset.rtu ∧ t.asc = State.reset.asc

/-- R30 ("written by"), R32, R58, R342, R355: which operations can change which state; no operation writes the parameters, the
driven lines or the transactions to come. -/
def Obligations.WrittenOnlyBy : Prop :=
  ∀ (i : Instr) (s t : State), exec i s = .next t →
    t.cfg = s.cfg ∧ t.lines = s.lines ∧ t.pending = s.pending ∧
    (t.ck.crc ≠ s.ck.crc → i = .sysReset ∨ i = .crcInit ∨ ∃ b, i = .crcUpd b) ∧
    (t.ck.lrc ≠ s.ck.lrc → i = .sysReset ∨ i = .lrcInit ∨ ∃ b, i = .lrcUpd b) ∧
    (t.rtu ≠ s.rtu → i = .sysReset ∨ i = .rtuTick ∨ ∃ b, i = .rtuRx b) ∧
    (t.asc ≠ s.asc → i = .sysReset ∨ ∃ c, i = .ascRx c)

/-- R86, R51, R52: the codecs, the function codes, DEC.FRAME and the SENDs are pure: they change no state, and the same operands
give the same result whatever the units hold; the initialising operations are idempotent. -/
def Obligations.PureOperationsKeepState : Prop :=
  (∀ (i : Instr) (s s' t : State), isPure i = true → s'.lines = s.lines → s'.cfg = s.cfg → exec i s = .next t →
    t = { s with result := t.result } ∧ exec i s' = .next { s' with result := t.result }) ∧
  ∀ (i : Instr) (s t : State), (i = .crcInit ∨ i = .lrcInit ∨ i = .sysReset) → exec i s = .next t → exec i t = .next t

/-- R310, R321: an operation has a successor state exactly when it has a meaning: every operation but a reserved command,
DEC.FRAME with tag kind 3 and RTU.RX with `baud = 0` completes in every state (for the SENDs within `SEND_MAX` where that is set,
the model's choice, log 9); those are refused; nothing faults. -/
def Obligations.ExecutableCompletes : Prop :=
  ∀ (i : Instr) (s : State),
    (Executable i s → ∃ t, exec i s = .next t) ∧ (¬Executable i s → ∃ r, exec i s = .refused r)

/-- The state after reset has the invariant. -/
def Obligations.ResetInvariant : Prop := State.reset.Inv

/-- R38, R42, R43, R169, R30 (R38 and R169 are derived there): every step keeps what holds between operations, from any state
that has it. -/
def Obligations.StepKeepsInvariant : Prop :=
  ∀ s t : State, s.Inv → step s = .next t → t.Inv
end

