-- ==== Sys2Proof/Laws/Ascii.lean ====
section
/-! SUPPORT. U4: hex characters and pairs, and everything ASC.RX can do to the unit. -/

namespace Sys2Proof.Machine

/-- The output character of a nibble reads back as the nibble (30_encoding.md R115, 42_ascii_seg.md R203). -/
theorem hexVal_hexChar : ∀ v : BitVec 4, hexVal (hexChar v) = some v := by decide

/-- The start marker, CR and LF are no hex characters. -/
@[simp] theorem hexVal_colon : hexVal 0x3A#8 = none := by decide

@[simp] theorem hexVal_cr : hexVal 0x0D#8 = none := by decide

@[simp] theorem hexVal_lf : hexVal 0x0A#8 = none := by decide

/-- No output character is the start marker. -/
theorem hexChar_ne_colon : ∀ v : BitVec 4, hexChar v ≠ 0x3A#8 := by decide

/-- No output character is CR. -/
theorem hexChar_ne_cr : ∀ v : BitVec 4, hexChar v ≠ 0x0D#8 := by decide

/-- A pair is a byte exactly when both characters are hex, the first the high nibble (20_memory.md R79). -/
theorem hexPair_eq_some_iff (p c v : Byte) :
    hexPair p c = some v ↔ ∃ h l, hexVal p = some h ∧ hexVal c = some l ∧ v = h ++ l := by
  unfold hexPair
  cases hexVal p <;> cases hexVal c <;> simp [eq_comm]

/-- A pair is no byte exactly when one of its characters is not hex. -/
theorem hexPair_eq_none_iff (p c : Byte) : hexPair p c = none ↔ hexVal p = none ∨ hexVal c = none := by
  unfold hexPair
  cases hexVal p <;> cases hexVal c <;> simp

/-- The two output characters of a byte, as a pair, are the byte. -/
theorem hexPair_hexChars (b : Byte) :
    hexPair (hexChar (b.extractLsb' 4 4)) (hexChar (b.extractLsb' 0 4)) = some b := by
  rw [hexPair_eq_some_iff]
  refine ⟨_, _, hexVal_hexChar _, hexVal_hexChar _, ?_⟩
  revert b
  decide

theorem hex2_length (b : Byte) : (hex2 b).length = 2 := rfl

theorem hex2_flatMap_length (bs : List Byte) : (bs.flatMap hex2).length = 2 * bs.length := by
  induction bs with
  | nil => rfl
  | cons b bs ih => rw [List.flatMap_cons, List.length_append, ih, hex2_length, List.length_cons]; omega

/-- The flush reports everything accumulated, or nothing (42_ascii_seg.md R192, R197). -/
theorem ascFlush_eq (acc : List Byte) :
    ascFlush acc = if acc = [] then [] else [{ kind := .errored, bytes := acc }] := by
  cases acc <;> simp [ascFlush]

/-- The terminator reports nothing for an empty buffer (R196). -/
theorem ascTerminate_nil {u : Asc} (h : u.acc = []) : ascTerminate u = [] := by
  simp [ascTerminate, h]

/-- The terminator drops the last decoded byte and takes the kind from the LRC (R195). -/
theorem ascTerminate_snoc {u : Asc} {payload : List Byte} {check : Byte} (h : u.acc = payload ++ [check]) :
    ascTerminate u = [{ kind := if u.lrc = 0x00#8 then .valid else .errored, bytes := payload }] := by
  simp [ascTerminate, h, slice, lrcZero]

/-- D16's "idle" is an empty buffer (92_eei_decisions.md D16). -/
theorem ascBufferEmpty_iff (s : State) : s.ascBufferEmpty = true ↔ s.ascAlen = 0 := by
  simp [State.ascBufferEmpty, State.ascAlen]

/-- U4 is idle exactly when nothing is decoded and nothing is held (10_state.md R53). -/
theorem ascIdle_iff (s : State) : s.ascIdle = true ↔ s.ascAlen = 0 ∧ s.pendV = false := by
  simp [State.ascIdle, ascBufferEmpty_iff]

/-- The two forms agree wherever no character is held, and R53's is the narrower (log 26). -/
theorem ascIdle_eq_ascBufferEmpty {s : State} (h : s.pendV = false) : s.ascIdle = s.ascBufferEmpty := by
  simp [State.ascIdle, h]

/-- Everything ASC.RX can do to U4: restart, hold, terminate, take a byte, or discard a bad pair (R191). -/
theorem ascReceive_cases (cap : Option Nat) (u : Asc) (c : Byte) :
    (c = 0x3A#8 ∧ ascReceive cap u c = (Asc.reset, ascFlush u.acc)) ∨
    (c ≠ 0x3A#8 ∧ u.pend = none ∧ ascReceive cap u c = ({ u with pend := some c }, [])) ∨
    (c = 0x0A#8 ∧ u.pend = some 0x0D#8 ∧ ascReceive cap u c = (Asc.reset, ascTerminate u)) ∨
    (∃ p v, c ≠ 0x3A#8 ∧ u.pend = some p ∧ hexPair p c = some v ∧ ascReceive cap u c = ascAppend cap u v) ∨
    (∃ p, c ≠ 0x3A#8 ∧ u.pend = some p ∧ ¬(p = 0x0D#8 ∧ c = 0x0A#8) ∧ hexPair p c = none ∧
      ascReceive cap u c = (Asc.reset, ascFlush u.acc)) := by
  unfold ascReceive chColon chCr chLf
  by_cases hc : c = 0x3A#8
  · exact .inl ⟨hc, by simp [hc]⟩
  cases hp : u.pend with
  | none => exact .inr (.inl ⟨hc, rfl, by simp [hc]⟩)
  | some p =>
    by_cases ht : p = 0x0D#8 ∧ c = 0x0A#8
    · obtain ⟨rfl, rfl⟩ := ht
      exact .inr (.inr (.inl ⟨rfl, rfl, by simp⟩))
    · cases hx : hexPair p c with
      | some v => exact .inr (.inr (.inr (.inl ⟨p, v, hc, rfl, hx, by simp [hc, ht, hx]⟩)))
      | none => exact .inr (.inr (.inr (.inr ⟨p, hc, rfl, ht, hx, by simp [hc, ht, hx]⟩)))

/-- Two hex characters after nothing held take one byte, where it does not fill the buffer (R193, R194). -/
theorem ascReceive_pair (cap : Option Nat) (u : Asc) (b : Byte) (hp : u.pend = none)
    (hcap : cap ≠ some (u.acc.length + 1)) :
    ascReceive cap u (hexChar (b.extractLsb' 4 4)) = ({ u with pend := some (hexChar (b.extractLsb' 4 4)) }, []) ∧
    ascReceive cap { u with pend := some (hexChar (b.extractLsb' 4 4)) } (hexChar (b.extractLsb' 0 4)) =
      ({ acc := u.acc ++ [b], lrc := u.lrc + b, pend := none }, []) := by
  constructor
  · simp [ascReceive, chColon, hexChar_ne_colon, hp]
  · have := hexPair_hexChars b
    simp [ascReceive, chColon, chCr, hexChar_ne_colon, hexChar_ne_cr, this, ascAppend, hcap, lrcStep]

end Sys2Proof.Machine
end

