-- ==== Sys2Proof/Laws/Checksum.lean ====
section
/-! SUPPORT. The checksum steps: how the folds split, the bit step as a linear and injective map, the LRC as a sum. -/

namespace Sys2Proof.Machine

@[simp] theorem crc16From_nil (c : Half) : crc16From c [] = c := rfl

@[simp] theorem crc16From_cons (c : Half) (b : Byte) (bs : List Byte) :
    crc16From c (b :: bs) = crc16From (crc16Step c b) bs := rfl

theorem crc16From_append (c : Half) (xs ys : List Byte) :
    crc16From c (xs ++ ys) = crc16From (crc16From c xs) ys := by
  simp [crc16From]

theorem crc16_append (xs ys : List Byte) : crc16 (xs ++ ys) = crc16From (crc16 xs) ys :=
  crc16From_append _ _ _

theorem crc16_snoc (xs : List Byte) (b : Byte) : crc16 (xs ++ [b]) = crc16Step (crc16 xs) b := by
  simp [crc16_append]

@[simp] theorem crcBits_zero (c : Half) : crcBits 0 c = c := rfl

@[simp] theorem crcBits_succ (k : Nat) (c : Half) : crcBits (k + 1) c = crcBits k (crcBit c) := rfl

/-- A bit step without the feedback: the low bit is 0. -/
theorem crcBit_even {c : Half} (h : c.getLsbD 0 = false) : crcBit c = c >>> 1 := by
  rw [crcBit, h]; rfl

/-- A bit step with the feedback: the low bit is 1. -/
theorem crcBit_odd {c : Half} (h : c.getLsbD 0 = true) : crcBit c = (c >>> 1) ^^^ crcPoly := by
  rw [crcBit, h]; rfl

theorem crcBit_xor (x y : Half) : crcBit (x ^^^ y) = crcBit x ^^^ crcBit y := by
  unfold crcBit
  rw [BitVec.getLsbD_xor, BitVec.ushiftRight_xor_distrib]
  cases x.getLsbD 0 <;> cases y.getLsbD 0 <;> simp
  · rw [BitVec.xor_assoc]
  · rw [BitVec.xor_assoc, BitVec.xor_assoc, BitVec.xor_comm crcPoly]
  · rw [BitVec.xor_assoc, BitVec.xor_comm (y >>> 1), ← BitVec.xor_assoc crcPoly]
    simp

theorem crcBits_xor (k : Nat) (x y : Half) : crcBits k (x ^^^ y) = crcBits k x ^^^ crcBits k y := by
  induction k generalizing x y with
  | zero => rfl
  | succ k ih => simp only [crcBits_succ, crcBit_xor, ih]

/-- Bit 15 of a bit step's result is the bit that was shifted out (60_exceptions.md R325). -/
theorem crcBit_msb (c : Half) : (crcBit c).getLsbD 15 = c.getLsbD 0 := by
  unfold crcBit
  cases h : c.getLsbD 0 <;> simp [crcPoly]

/-- Shifting zeros in is what a bit step does while the low bits are zero. -/
theorem crcBits_of_low_zero (k : Nat) (c : Half) (h : ∀ j, j < k → c.getLsbD j = false) : crcBits k c = c >>> k := by
  induction k generalizing c with
  | zero => simp
  | succ k ih =>
    rw [crcBits_succ, crcBit_even (h 0 (by omega)), ih]
    · rw [← BitVec.shiftRight_add, Nat.add_comm]
    · intro j hj
      rw [BitVec.getLsbD_ushiftRight, Nat.add_comm]
      exact h (j + 1) (by omega)

@[simp] theorem lrcSum_nil : lrcSum [] = 0x00#8 := rfl

theorem lrcSum_snoc (xs : List Byte) (b : Byte) : lrcSum (xs ++ [b]) = lrcSum xs + b := by
  simp [lrcSum, lrcStep]

/-- The LRC accumulator is the sum modulo 256 (40_checksum.md R145). -/
theorem lrcSum_toNat (bs : List Byte) : (lrcSum bs).toNat = (bs.map BitVec.toNat).sum % 256 := by
  induction bs using List.reverseRecOn with
  | nil => rfl
  | append_singleton xs b ih =>
    rw [lrcSum_snoc, BitVec.toNat_add, ih]
    simp

theorem crcZero_iff (c : Half) : crcZero c = true ↔ c = 0x0000#16 := by
  simp [crcZero]

theorem lrcZero_iff (l : Byte) : lrcZero l = true ↔ l = 0x00#8 := by
  simp [lrcZero]

end Sys2Proof.Machine
end

