-- ==== Sys2Proof/Laws/State.lean ====
section
/-! SUPPORT. One lemma per field of `State` and update of it, and the two ways an operation completes. -/

namespace Sys2Proof.Machine

@[simp] theorem State.setCk_cfg (s : State) (u : Ck) : (s.setCk u).cfg = s.cfg := rfl
@[simp] theorem State.setCk_ck (s : State) (u : Ck) : (s.setCk u).ck = u := rfl
@[simp] theorem State.setCk_rtu (s : State) (u : Ck) : (s.setCk u).rtu = s.rtu := rfl
@[simp] theorem State.setCk_asc (s : State) (u : Ck) : (s.setCk u).asc = s.asc := rfl
@[simp] theorem State.setCk_lines (s : State) (u : Ck) : (s.setCk u).lines = s.lines := rfl
@[simp] theorem State.setCk_pending (s : State) (u : Ck) : (s.setCk u).pending = s.pending := rfl
@[simp] theorem State.setCk_result (s : State) (u : Ck) : (s.setCk u).result = s.result := rfl

@[simp] theorem State.setRtu_cfg (s : State) (u : Rtu) : (s.setRtu u).cfg = s.cfg := rfl
@[simp] theorem State.setRtu_ck (s : State) (u : Rtu) : (s.setRtu u).ck = s.ck := rfl
@[simp] theorem State.setRtu_rtu (s : State) (u : Rtu) : (s.setRtu u).rtu = u := rfl
@[simp] theorem State.setRtu_asc (s : State) (u : Rtu) : (s.setRtu u).asc = s.asc := rfl
@[simp] theorem State.setRtu_lines (s : State) (u : Rtu) : (s.setRtu u).lines = s.lines := rfl
@[simp] theorem State.setRtu_pending (s : State) (u : Rtu) : (s.setRtu u).pending = s.pending := rfl
@[simp] theorem State.setRtu_result (s : State) (u : Rtu) : (s.setRtu u).result = s.result := rfl

@[simp] theorem State.setAsc_cfg (s : State) (u : Asc) : (s.setAsc u).cfg = s.cfg := rfl
@[simp] theorem State.setAsc_ck (s : State) (u : Asc) : (s.setAsc u).ck = s.ck := rfl
@[simp] theorem State.setAsc_rtu (s : State) (u : Asc) : (s.setAsc u).rtu = s.rtu := rfl
@[simp] theorem State.setAsc_asc (s : State) (u : Asc) : (s.setAsc u).asc = u := rfl
@[simp] theorem State.setAsc_lines (s : State) (u : Asc) : (s.setAsc u).lines = s.lines := rfl
@[simp] theorem State.setAsc_pending (s : State) (u : Asc) : (s.setAsc u).pending = s.pending := rfl
@[simp] theorem State.setAsc_result (s : State) (u : Asc) : (s.setAsc u).result = s.result := rfl

@[simp] theorem State.setResult_cfg (s : State) (r : OpResult) : (s.setResult r).cfg = s.cfg := rfl
@[simp] theorem State.setResult_ck (s : State) (r : OpResult) : (s.setResult r).ck = s.ck := rfl
@[simp] theorem State.setResult_rtu (s : State) (r : OpResult) : (s.setResult r).rtu = s.rtu := rfl
@[simp] theorem State.setResult_asc (s : State) (r : OpResult) : (s.setResult r).asc = s.asc := rfl
@[simp] theorem State.setResult_lines (s : State) (r : OpResult) : (s.setResult r).lines = s.lines := rfl
@[simp] theorem State.setResult_pending (s : State) (r : OpResult) : (s.setResult r).pending = s.pending := rfl
@[simp] theorem State.setResult_result (s : State) (r : OpResult) : (s.setResult r).result = r := rfl

@[simp] theorem State.present_cfg (s : State) (l : Lines) (rest : List Transaction) : (s.present l rest).cfg = s.cfg := rfl
@[simp] theorem State.present_ck (s : State) (l : Lines) (rest : List Transaction) : (s.present l rest).ck = s.ck := rfl
@[simp] theorem State.present_rtu (s : State) (l : Lines) (rest : List Transaction) : (s.present l rest).rtu = s.rtu := rfl
@[simp] theorem State.present_asc (s : State) (l : Lines) (rest : List Transaction) : (s.present l rest).asc = s.asc := rfl
@[simp] theorem State.present_lines (s : State) (l : Lines) (rest : List Transaction) : (s.present l rest).lines = l := rfl
@[simp] theorem State.present_pending (s : State) (l : Lines) (rest : List Transaction) : (s.present l rest).pending = rest := rfl
@[simp] theorem State.present_result (s : State) (l : Lines) (rest : List Transaction) : (s.present l rest).result = s.result := rfl

@[simp] theorem State.complete_eq (s : State) (r : OpResult) : s.complete r = .next (s.setResult r) := rfl

@[simp] theorem State.deliver_eq (s : State) (rs : List Report) :
    s.deliver rs = .next (s.setResult (.reports (rs.map (Report.deliver s.lines.fmtSel)))) := rfl

@[simp] theorem State.dispatchAs_eq (s : State) (e : Option RegEntry) (fc : Byte) :
    s.dispatchAs e fc = .next (s.setResult (.dispatched (dispatchEntry e fc s.lines.fmtSel s.lines.opb))) := rfl

theorem State.next_eq_next {s t : State} (h : (Host.Outcome.next s : Outcome) = .next t) : s = t := by
  injection h

/-- Whether a payload fits is whether it is within `SEND_MAX`, where that is set. -/
theorem payloadFits_iff (cfg : Config) (p : List Byte) :
    payloadFits cfg p = true ↔ ∀ m, cfg.sendMax = some m → p.length ≤ m := by
  unfold payloadFits
  cases cfg.sendMax <;> simp

end Sys2Proof.Machine
end

