-- ==== Sys2Proof/Laws/Codec.lean ====
section
/-! SUPPORT. U5: what each shape of a codec answers, by the length and the count of the data field; U6: what a direction is. -/

namespace Sys2Proof.Machine

theorem pair_toNat (hi lo : Byte) : (pair hi lo).toNat = hi.toNat * 256 + lo.toNat := by
  have h : (pair hi lo).toNat = hi.toNat <<< 8 ||| lo.toNat := BitVec.toNat_append hi lo
  rw [h, ← Nat.shiftLeft_add_eq_or_of_lt lo.isLt, Nat.shiftLeft_eq]

/-- A field of exactly 4 bytes (30_encoding.md R104, R108). -/
@[simp] theorem twoHalves_four (a b c d : Byte) : twoHalves [a, b, c, d] = .ok (pair a b, pair c d) := rfl

/-- Every other length (44_field_codecs.md R260, R271). -/
theorem twoHalves_of_ne {d : List Byte} (h : d.length ≠ 4) :
    twoHalves d = .error { kind := .lenNe, expected := 4, actual := d.length } := by
  match d, h with
  | [], _ => rfl
  | [_], _ => rfl
  | [_, _], _ => rfl
  | [_, _, _], _ => rfl
  | [_, _, _, _], h => exact absurd rfl h
  | _ :: _ :: _ :: _ :: _ :: _, _ => rfl

@[simp] theorem counted_nil : counted [] = .error { kind := .lenDecl, expected := 1, actual := 0 } := rfl

/-- The declared length holds (R262, R266). -/
theorem counted_of_eq {n : Byte} {r : List Byte} (h : r.length = n.toNat) : counted (n :: r) = .ok (n, r) := by
  simp [counted, h]

/-- The declared length does not hold (R262, R266). -/
theorem counted_of_ne {n : Byte} {r : List Byte} (h : r.length ≠ n.toNat) :
    counted (n :: r) = .error { kind := .lenDecl, expected := 1 + n.toNat, actual := r.length + 1 } := by
  simp [counted, h, failWith]

theorem unpackBools_length (bs : List Byte) : (unpackBools bs).length = 8 * bs.length := by
  induction bs with
  | nil => rfl
  | cons b bs ih =>
    rw [unpackBools, List.flatMap_cons, List.length_append, List.length_cons]
    rw [unpackBools] at ih
    rw [ih]
    simp [byteBools]
    omega

theorem mem_selected (fmtSel : Byte) (f : Fmt) : f ∈ selected fmtSel ↔ fmtSel.getLsbD f.bit = true := by
  cases f <;> simp [selected, Fmt.all, Fmt.bit]

@[simp] theorem readAs_fmt (f : Fmt) (r : List Byte) : (readAs f r).fmt = f := rfl

@[simp] theorem readAs_length (f : Fmt) (r : List Byte) : (readAs f r).elems.length = r.length / f.width := by
  simp [readAs]

/-- Element `j` of a reading (30_encoding.md R114). -/
theorem readAs_getElem? (f : Fmt) (r : List Byte) (j : Nat) (h : j < r.length / f.width) :
    (readAs f r).elems[j]? = some (f.read (rawElement f.width r j)) := by
  simp [readAs, h]

theorem bigEndian_snoc (bs : List Byte) (b : Byte) : bigEndian (bs ++ [b]) = bigEndian bs * 256 + b.toNat := by
  simp [bigEndian]

theorem bigEndian_append (xs ys : List Byte) :
    bigEndian (xs ++ ys) = bigEndian xs * 256 ^ ys.length + bigEndian ys := by
  induction ys using List.reverseRecOn with
  | nil => simp [bigEndian]
  | append_singleton ys y ih =>
    rw [← List.append_assoc, bigEndian_snoc, ih, bigEndian_snoc, List.length_append, List.length_singleton, pow_succ]
    ring

theorem bigEndian_lt (bs : List Byte) : bigEndian bs < 256 ^ bs.length := by
  induction bs using List.reverseRecOn with
  | nil => simp [bigEndian]
  | append_singleton bs b ih =>
    rw [bigEndian_snoc, List.length_append, List.length_singleton, pow_succ]
    have := b.isLt
    omega

/-- A composite of 4 bytes or fewer (44_field_codecs.md R273, R275). -/
theorem composite_short {α : Type} (sub : List Byte → Except DecErr α) {d : List Byte} (h : d.length ≤ 4) :
    composite sub d = .error { kind := .tooShort, expected := 5, actual := d.length } := by
  simp [composite, h, failWith]

/-- A composite whose sub-codec succeeds on what follows the first 4 bytes. -/
theorem composite_ok {α : Type} {sub : List Byte → Except DecErr α} {a b c d : Byte} {rest : List Byte} {x : α}
    (hr : rest ≠ []) (h : sub rest = .ok x) :
    composite sub (a :: b :: c :: d :: rest) = .ok ((pair a b, pair c d), x) := by
  have : rest.length ≠ 0 := by simpa using hr
  have hl : ¬rest.length + 1 + 1 + 1 + 1 ≤ 4 := by omega
  have hs : slice 4 (rest.length + 1 + 1 + 1 + 1) (a :: b :: c :: d :: rest) = rest := by simp [slice]
  simp [composite, hl, slice] at *
  simp [h]

/-- A composite returns the sub-codec's error unchanged. -/
theorem composite_error {α : Type} {sub : List Byte → Except DecErr α} {a b c d : Byte} {rest : List Byte} {e : DecErr}
    (hr : rest ≠ []) (h : sub rest = .error e) : composite sub (a :: b :: c :: d :: rest) = .error e := by
  have : rest.length ≠ 0 := by simpa using hr
  have hl : ¬rest.length + 1 + 1 + 1 + 1 ≤ 4 := by omega
  simp [composite, hl, slice, h]

@[simp] theorem CodecResult.of_ok {α : Type} (value : α → Value) (x : α) : CodecResult.of value (.ok x) = .ok (value x) :=
  rfl

@[simp] theorem CodecResult.of_error {α : Type} (value : α → Value) (e : DecErr) :
    CodecResult.of value (.error e) = .err e := rfl

@[simp] theorem runDirection_none (fmtSel : Byte) (d : List Byte) : runDirection none fmtSel d = none := rfl

@[simp] theorem runDirection_some (c : Codec) (fmtSel : Byte) (d : List Byte) :
    runDirection (some c) fmtSel d = some (c.run fmtSel d) := rfl

/-- An entry's description index is its code without bit 7 (43_dispatch.md R221). -/
theorem fcDescIdx_toNat (fc : Byte) : (fcDescIdx fc).toNat = fc.toNat % 128 := by
  simp [fcDescIdx]

/-- `fc_err` is bit 7 of the code (45_frame_decoder.md R291). -/
theorem fcErrBit_eq (fc : Byte) : fcErrBit fc = decide (128 ≤ fc.toNat) := by
  revert fc
  decide

@[simp] theorem decodeFrame_nil (tag : ReportKind) (fmtSel : Byte) :
    decodeFrame tag [] fmtSel = { tag := tag, body := none } := rfl

@[simp] theorem decodeFrame_singleton (tag : ReportKind) (x fmtSel : Byte) :
    decodeFrame tag [x] fmtSel = { tag := tag, body := none } := rfl

/-- A segment of two bytes or more: the dispatch of what follows the function code (45_frame_decoder.md R290). -/
theorem decodeFrame_cons_cons (tag : ReportKind) (a fc fmtSel : Byte) (d : List Byte) :
    decodeFrame tag (a :: fc :: d) fmtSel =
      { tag := tag,
        body := some
          { slaveAddr := a, funcCode := fc, fcErr := fcErrBit fc, descIdx := fcDescIdx fc,
            fcKnown := (dispatch fc fmtSel d).known, master := (dispatch fc fmtSel d).request,
            slave := (dispatch fc fmtSel d).response } } := rfl

end Sys2Proof.Machine
end

