-- ==== Sys2Proof/Laws/Decode.lean ====
section
/-! SUPPORT. The fields of a command word that is put together from them, and the shape of the decoders. -/

namespace Sys2Proof

@[simp] theorem cmdOp_append (op : BitVec 5) (b : Byte) : cmdOp (op ++ b) = op := by
  ext i hi
  rw [cmdOp, BitVec.getElem_extractLsb']
  refine (BitVec.getLsbD_append ..).trans ?_
  simp [BitVec.getLsbD_eq_getElem hi]

@[simp] theorem cmdByte_append (op : BitVec 5) (b : Byte) : cmdByte (op ++ b) = b := by
  ext i hi
  rw [cmdByte, BitVec.getElem_extractLsb']
  refine (BitVec.getLsbD_append ..).trans ?_
  simp [hi]

/-- Every command word is its two fields (30_encoding.md R119). -/
theorem cmdOp_append_cmdByte (w : BitVec 13) : cmdOp w ++ cmdByte w = w := by
  ext i hi
  refine (BitVec.getElem_append hi).trans ?_
  by_cases h : i < 8
  · simp [h, cmdByte, BitVec.getLsbD_eq_getElem hi]
  · have : 8 + (i - 8) = i := by omega
    simp [h, cmdOp, this, BitVec.getLsbD_eq_getElem hi]

/-- A command word with an unassigned `op` is the default row (30_encoding.md R122). -/
theorem decodeCmd_of_unassigned {op : BitVec 5} (b : Byte) (h : op ∉ assignedOps) :
    decodeCmd (op ++ b) = .cmdReserved op b := by
  have key : ∀ n, op.toNat = n → BitVec.ofNat 5 n ∉ assignedOps := by
    rintro n rfl
    simpa using h
  unfold decodeCmd
  rw [cmdOp_append, cmdByte_append]
  split <;> first | rfl | (exfalso; exact key _ ‹_› (by decide))

end Sys2Proof
end

