-- ==== Sys2Proof/Laws/Rtu.lean ====
section
/-! SUPPORT. U3: the window after a byte, what the scan finds, and everything RTU.RX and RTU.TICK can do to the unit. -/

namespace Sys2Proof.Machine

@[simp] theorem slice_zero {α : Type} (b : Nat) (l : List α) : slice 0 b l = l.take b := by
  simp [slice]

theorem slice_length {α : Type} (a b : Nat) (l : List α) : (slice a b l).length = min b l.length - a := by
  simp [slice]

@[simp] theorem winBytes_nil : winBytes [] = [] := rfl

@[simp] theorem winBytes_cons (t : Tracked) (ts : List Tracked) : winBytes (t :: ts) = t.byte :: winBytes ts := rfl

@[simp] theorem winBytes_append (xs ys : List Tracked) : winBytes (xs ++ ys) = winBytes xs ++ winBytes ys := by
  simp [winBytes]

@[simp] theorem winBytes_length (win : List Tracked) : (winBytes win).length = win.length := by
  simp [winBytes]

theorem winBytes_drop (k : Nat) (win : List Tracked) : winBytes (win.drop k) = (winBytes win).drop k := by
  simp [winBytes]

theorem winBytes_eq_nil (win : List Tracked) : winBytes win = [] ↔ win = [] := by
  simp [winBytes]

/-- Step 3 of RTU.RX, in the two parts of 41_rtu_sync.md R163 and R164. -/
theorem pushByte_eq (win : List Tracked) (b : Byte) : pushByte win b = received win b := by
  simp [pushByte, received, Tracked.feed, crcSeed]

@[simp] theorem received_length (win : List Tracked) (b : Byte) : (received win b).length = win.length + 1 := by
  simp [received]

@[simp] theorem winBytes_received (win : List Tracked) (b : Byte) :
    winBytes (received win b) = winBytes win ++ [b] := by
  simp [received, winBytes, Function.comp_def]

theorem received_ne_nil (win : List Tracked) (b : Byte) : received win b ≠ [] := by
  simp [received]

/-- Each lane is the CRC from its own entry to the newest (10_state.md R38), for a window by itself. -/
def LanesHold (win : List Tracked) : Prop :=
  ∀ k t, win[k]? = some t → t.crc = crc16 (winBytes (win.drop k))

@[simp] theorem lanesHold_nil : LanesHold [] := by
  intro k t h
  simp at h

/-- The append and the lane updates keep the window invariant (R38). -/
theorem LanesHold.received {win : List Tracked} (h : LanesHold win) (b : Byte) : LanesHold (received win b) := by
  intro k t ht
  rw [winBytes_drop, winBytes_received]
  rcases Nat.lt_trichotomy k win.length with hk | hk | hk
  · have hw : win[k]? = some win[k] := List.getElem?_eq_getElem hk
    rw [Machine.received, List.getElem?_append_left (by simpa using hk)] at ht
    simp only [List.getElem?_map, hw, Option.map_some, Option.some.injEq] at ht
    rw [List.drop_append_of_le_length (by simpa using hk.le), crc16_snoc, ← winBytes_drop, ← h k _ hw, ← ht]
  · subst hk
    rw [Machine.received, List.getElem?_append_right (by simp)] at ht
    simp only [List.length_map, Nat.sub_self, List.getElem?_cons_zero, Option.some.injEq] at ht
    rw [List.drop_append_of_le_length (by simp), List.drop_of_length_le (by simp), ← ht]
    rfl
  · rw [List.getElem?_eq_none (by simpa using hk)] at ht
    cases ht

/-- Eviction removes whole entries from the front, so it keeps the window invariant (R38). -/
theorem LanesHold.drop {win : List Tracked} (h : LanesHold win) (n : Nat) : LanesHold (win.drop n) := by
  intro k t ht
  rw [List.getElem?_drop] at ht
  rw [List.drop_drop]
  exact h _ _ ht

/-- What the scan finds: the lowest eligible offset whose lane reads zero (41_rtu_sync.md R165). -/
theorem findMatch_eq_some {minLen : Nat} {win : List Tracked} {i : Nat} (h : findMatch minLen win = some i) :
    i < win.length ∧ i + minLen ≤ win.length ∧ (∃ t, win[i]? = some t ∧ t.crc = 0x0000#16) ∧
      ∀ k t, k < i → win[k]? = some t → t.crc ≠ 0x0000#16 := by
  induction win generalizing i with
  | nil => simp [findMatch] at h
  | cons t ts ih =>
    rw [findMatch] at h
    split at h
    · cases h
    · split at h
      · cases h
        exact ⟨by simp, by simp; omega, ⟨t, rfl, (crcZero_iff _).1 ‹_›⟩, by omega⟩
      · obtain ⟨j, hj, rfl⟩ := Option.map_eq_some_iff.1 h
        obtain ⟨h1, h2, h3, h4⟩ := ih hj
        refine ⟨by simpa using h1, by simp; omega, by simpa using h3, ?_⟩
        intro k u hk hu
        cases k with
        | zero =>
          simp only [List.getElem?_cons_zero, Option.some.injEq] at hu
          rw [← hu]
          exact fun h0 => absurd ((crcZero_iff _).2 h0) ‹_›
        | succ k => exact h4 k u (by omega) (by simpa using hu)

/-- The scan finds nothing exactly when no eligible lane reads zero. -/
theorem findMatch_eq_none {minLen : Nat} {win : List Tracked} (h : findMatch minLen win = none) :
    ∀ k t, k + minLen ≤ win.length → win[k]? = some t → t.crc ≠ 0x0000#16 := by
  induction win with
  | nil => simp
  | cons t ts ih =>
    rw [findMatch] at h
    intro k u hk hu
    split at h
    · simp at hk; omega
    · split at h
      · cases h
      · cases k with
        | zero =>
          simp only [List.getElem?_cons_zero, Option.some.injEq] at hu
          rw [← hu]
          exact fun h0 => absurd ((crcZero_iff _).2 h0) ‹_›
        | succ k => exact ih (by simpa using h) k u (by simp at hk; omega) (by simpa using hu)

/-- The scan finds `i` when `i` is the lowest eligible offset whose lane reads zero. -/
theorem findMatch_of_lowest {minLen : Nat} {win : List Tracked} {i : Nat} (hi : i + minLen ≤ win.length)
    (hz : ∃ t, win[i]? = some t ∧ t.crc = 0x0000#16)
    (hlow : ∀ k t, k < i → win[k]? = some t → t.crc ≠ 0x0000#16) : findMatch minLen win = some i := by
  obtain ⟨t, ht, ht0⟩ := hz
  have hlt : i < win.length := (List.getElem?_eq_some_iff.1 ht).1
  cases h : findMatch minLen win with
  | none => exact absurd ht0 (findMatch_eq_none h i t hi ht)
  | some j =>
    obtain ⟨_, hj, ⟨u, hu, hu0⟩, hlow'⟩ := findMatch_eq_some h
    rcases Nat.lt_trichotomy i j with hij | hij | hij
    · exact absurd ht0 (hlow' i t hij ht)
    · rw [hij]
    · exact absurd hu0 (hlow j u hij hu)

/-- The scan finds nothing when no eligible lane reads zero. -/
theorem findMatch_of_unmatched {minLen : Nat} {win : List Tracked}
    (h : ∀ k t, k + minLen ≤ win.length → win[k]? = some t → t.crc ≠ 0x0000#16) : findMatch minLen win = none := by
  cases hf : findMatch minLen win with
  | none => rfl
  | some i =>
    obtain ⟨_, hi, ⟨t, ht, ht0⟩, _⟩ := findMatch_eq_some hf
    exact absurd ht0 (h i t hi ht)

/-- Everything RTU.RX can do to U3: a match at the lowest eligible zero lane, an eviction, or the byte stays. -/
theorem rtuReceive_cases (cfg : Config) (baud : BitVec 32) (win : List Tracked) (b : Byte) :
    (∃ i, findMatch cfg.minMatchLen (received win b) = some i ∧
      rtuReceive cfg baud win b = ({ win := [], timer := none }, matchReports i (winBytes win ++ [b]))) ∨
    (findMatch cfg.minMatchLen (received win b) = none ∧ cfg.winCeiling < win.length + 1 ∧
      rtuReceive cfg baud win b =
        ({ win := (received win b).drop cfg.evictBatch, timer := some (timerLoad baud) },
          [{ kind := .errored, bytes := (winBytes win ++ [b]).take cfg.evictBatch }])) ∨
    (findMatch cfg.minMatchLen (received win b) = none ∧ win.length + 1 ≤ cfg.winCeiling ∧
      rtuReceive cfg baud win b = ({ win := received win b, timer := some (timerLoad baud) }, [])) := by
  unfold rtuReceive
  simp only [pushByte_eq, winBytes_received, received_length, slice_zero]
  cases h : findMatch cfg.minMatchLen (received win b) with
  | some i => exact .inl ⟨i, rfl, rfl⟩
  | none =>
    by_cases hc : cfg.winCeiling < win.length + 1
    · exact .inr (.inl ⟨rfl, hc, by simp [hc]⟩)
    · exact .inr (.inr ⟨rfl, by omega, by simp [hc]⟩)

/-- Everything RTU.TICK can do to U3: nothing, count down, or flush. -/
theorem rtuElapse_cases (u : Rtu) :
    (u.timer = none ∧ rtuElapse u = (u, [])) ∨
    (∃ c, u.timer = some c ∧ c ≠ 1#16 ∧ rtuElapse u = ({ u with timer := some (c - 1#16) }, [])) ∨
    (u.timer = some 1#16 ∧ rtuElapse u = ({ win := [], timer := none }, rtuFlush u.win)) := by
  unfold rtuElapse
  cases h : u.timer with
  | none => exact .inl ⟨rfl, rfl⟩
  | some c =>
    by_cases hc : c = 1#16
    · subst hc
      exact .inr (.inr ⟨rfl, by simp⟩)
    · refine .inr (.inl ⟨c, rfl, hc, ?_⟩)
      have : c - 1#16 ≠ 0#16 := by
        intro h0
        exact hc (by simpa using BitVec.sub_eq_iff_eq_add.1 h0)
      simp [this]

/-- The flush reports the whole window, or nothing when it is empty (41_rtu_sync.md R171). -/
theorem rtuFlush_eq (win : List Tracked) :
    rtuFlush win = if win = [] then [] else [{ kind := .errored, bytes := winBytes win }] := by
  cases win <;> simp [rtuFlush]

/-- The load value, as a number, without a loss in the 16-bit count (41_rtu_sync.md R162, 40_checksum.md R148). -/
theorem timerLoad_range (baud : BitVec 32) (h : baud ≠ 0#32) :
    2 ≤ 1 + (50000 + baud.toNat - 1) / baud.toNat ∧ 1 + (50000 + baud.toNat - 1) / baud.toNat ≤ 50001 := by
  have hb : 1 ≤ baud.toNat := by
    rcases Nat.eq_zero_or_pos baud.toNat with h0 | h0
    · exact absurd (BitVec.eq_of_toNat_eq (by simpa using h0)) h
    · exact h0
  constructor
  · have : 1 ≤ (50000 + baud.toNat - 1) / baud.toNat := by
      rw [Nat.le_div_iff_mul_le hb]; omega
    omega
  · have : (50000 + baud.toNat - 1) / baud.toNat ≤ 50000 := by
      apply Nat.le_of_lt_succ
      rw [Nat.div_lt_iff_lt_mul hb]
      show _ < 50001 * baud.toNat
      omega
    omega

/-- RTU.RX with a positive `baud` (41_rtu_sync.md R161). -/
theorem execRtuRx_eq {b : Byte} {s : State} (h : s.lines.baud ≠ 0#32) :
    execRtuRx b s = (s.setRtu (rtuReceive s.cfg s.lines.baud s.rtu.win b).1).deliver
      (rtuReceive s.cfg s.lines.baud s.rtu.win b).2 := by
  simp [execRtuRx, h]

end Sys2Proof.Machine
end

