-- ==== Sys2Proof/Laws/Runs.lean ====
section
/-! SUPPORT. What one stream operation leaves and reports, in terms of its unit; and how runs of operations compose. -/

namespace Sys2Proof.Machine

/-- The parameters a model may assume, one by one (00_scope.md R11, 42_ascii_seg.md R198). -/
theorem legal_iff (c : Config) :
    c.legal = true ↔ 1 ≤ c.evictBatch ∧ c.evictBatch ≤ c.winCeiling ∧ 2 ≤ c.minMatchLen ∧
      ∀ m, c.ascCap = some m → 1 ≤ m := by
  unfold Config.legal
  cases c.ascCap <;> simp [and_assoc]

/-- The reports of a delivery are the reports that were delivered. -/
@[simp] theorem reported_setResult_reports (s : State) (fmtSel : Byte) (rs : List Report) :
    (s.setResult (.reports (rs.map (Report.deliver fmtSel)))).reported = rs := by
  simp [State.reported, Report.deliver, Function.comp_def]

/-- A next state that differs in U3 and the result only. -/
structure RtuNext (s t : State) (u : Rtu) (rs : List Report) : Prop where
  rtu : t.rtu = u
  reported : t.reported = rs
  cfg : t.cfg = s.cfg
  ck : t.ck = s.ck
  asc : t.asc = s.asc
  lines : t.lines = s.lines
  pending : t.pending = s.pending

/-- A next state that differs in U4 and the result only. -/
structure AscNext (s t : State) (u : Asc) (rs : List Report) : Prop where
  asc : t.asc = u
  reported : t.reported = rs
  cfg : t.cfg = s.cfg
  ck : t.ck = s.ck
  rtu : t.rtu = s.rtu
  lines : t.lines = s.lines
  pending : t.pending = s.pending

/-- RTU.RX with a positive `baud` completes as `rtuReceive` says. -/
theorem exec_rtuRx_next {s : State} (b : Byte) (h : s.lines.baud ≠ 0#32) :
    ∃ t, exec (.rtuRx b) s = .next t ∧
      RtuNext s t (rtuReceive s.cfg s.lines.baud s.rtu.win b).1 (rtuReceive s.cfg s.lines.baud s.rtu.win b).2 :=
  ⟨_, execRtuRx_eq h, rfl, reported_setResult_reports _ _ _, rfl, rfl, rfl, rfl, rfl⟩

/-- RTU.TICK completes as `rtuElapse` says. -/
theorem exec_rtuTick_next (s : State) :
    ∃ t, exec .rtuTick s = .next t ∧ RtuNext s t (rtuElapse s.rtu).1 (rtuElapse s.rtu).2 :=
  ⟨_, rfl, rfl, reported_setResult_reports _ _ _, rfl, rfl, rfl, rfl, rfl⟩

/-- ASC.RX completes as `ascReceive` says. -/
theorem exec_ascRx_next (s : State) (c : Byte) :
    ∃ t, exec (.ascRx c) s = .next t ∧
      AscNext s t (ascReceive s.cfg.ascCap s.asc c).1 (ascReceive s.cfg.ascCap s.asc c).2 :=
  ⟨_, rfl, rfl, reported_setResult_reports _ _ _, rfl, rfl, rfl, rfl, rfl⟩

@[simp] theorem runOps_nil (s : State) : runOps [] s = some (s, []) := rfl

/-- The first operation of a run. -/
theorem runOps_cons_next {i : Instr} {is : List Instr} {s t : State} (h : exec i s = .next t) :
    runOps (i :: is) s = (runOps is t).map (fun r => (r.1, t.reported ++ r.2)) := by
  simp [runOps, h]

/-- A run that completes, whose first operation completes. -/
theorem runOps_cons_eq_some {i : Instr} {is : List Instr} {s u : State} {rs : List Report} :
    runOps (i :: is) s = some (u, rs) ↔
      ∃ t rs', exec i s = .next t ∧ runOps is t = some (u, rs') ∧ rs = t.reported ++ rs' := by
  cases h : exec i s with
  | next t =>
    rw [runOps_cons_next h]
    simp only [Option.map_eq_some_iff, Prod.exists, Prod.mk.injEq, Host.Outcome.next.injEq]
    constructor
    · rintro ⟨u', rs', h1, rfl, rfl⟩
      exact ⟨t, rs', rfl, h1, rfl⟩
    · rintro ⟨t', rs', rfl, h1, rfl⟩
      exact ⟨u, rs', h1, rfl, rfl⟩
  | fault f => simp [runOps, h]
  | refused r => simp [runOps, h]

/-- A run of two sequences, one after the other. -/
theorem runOps_append {is js : List Instr} {s t u : State} {rs rs' : List Report} (h : runOps is s = some (t, rs))
    (h' : runOps js t = some (u, rs')) : runOps (is ++ js) s = some (u, rs ++ rs') := by
  induction is generalizing s rs with
  | nil =>
    obtain ⟨rfl, rfl⟩ : s = t ∧ [] = rs := by simpa using h
    exact h'
  | cons i is ih =>
    obtain ⟨v, rs1, h1, h2, rfl⟩ := runOps_cons_eq_some.1 h
    rw [List.cons_append, runOps_cons_eq_some]
    exact ⟨v, _, h1, ih h2, by simp⟩

end Sys2Proof.Machine
end

