-- ==== Sys2Proof/Laws/Invariant.lean ====
section
/-! SUPPORT. What holds of each unit between operations, and that each unit operation keeps it. -/

namespace Sys2Proof.Machine

/-- The part of `State.Inv` that speaks of U3. -/
structure RtuInv (cfg : Config) (u : Rtu) : Prop where
  lanes : LanesHold u.win
  bounded : u.win.length ≤ cfg.winCeiling
  unmatched : ∀ k t, u.win[k]? = some t → k + cfg.minMatchLen ≤ u.win.length → t.crc ≠ 0#16
  armed : u.timer.isSome = true ↔ 1 ≤ u.win.length
  count : ∀ c, u.timer = some c → 1 ≤ c.toNat ∧ c.toNat ≤ 50001

/-- The part of `State.Inv` that speaks of U4. -/
structure AscInv (cfg : Config) (u : Asc) : Prop where
  total : u.lrc.toNat = (u.acc.map BitVec.toNat).sum % 256
  held : u.pend ≠ some 0x3A#8
  room : ∀ m, cfg.ascCap = some m → u.acc.length < m

/-- `State.Inv` by units. -/
theorem inv_iff (s : State) : s.Inv ↔ s.cfg.legal = true ∧ RtuInv s.cfg s.rtu ∧ AscInv s.cfg s.asc :=
  ⟨fun h => ⟨h.legal, ⟨h.lanes, h.bounded, h.unmatched, h.armed, h.count⟩, ⟨h.total, h.held, h.room⟩⟩,
   fun ⟨a, b, c⟩ => ⟨a, b.lanes, b.bounded, b.unmatched, b.armed, b.count, c.total, c.held, c.room⟩⟩

theorem rtuInv_empty (cfg : Config) : RtuInv cfg { win := [], timer := none } :=
  ⟨lanesHold_nil, by simp, by simp, by simp, by simp⟩

theorem ascInv_empty {cfg : Config} (h : cfg.legal = true) : AscInv cfg { acc := [], lrc := 0x00#8, pend := none } := by
  refine ⟨by decide, by decide, fun m hm => ?_⟩
  have := ((legal_iff _).1 h).2.2.2 m hm
  simp
  omega

/-- The loaded count is a positive count (41_rtu_sync.md R162). -/
theorem timerLoad_bounds {baud : BitVec 32} (h : baud ≠ 0#32) :
    1 ≤ (timerLoad baud).toNat ∧ (timerLoad baud).toNat ≤ 50001 := by
  have hr := timerLoad_range baud h
  unfold timerLoad tmoBase tmoNum
  rw [BitVec.toNat_ofNat, Nat.mod_eq_of_lt] <;> omega

/-- A positive count goes down by one without a borrow. -/
theorem sub_one_toNat {c : BitVec 16} (hc : 1 ≤ c.toNat) : (c - 1#16).toNat = c.toNat - 1 := by
  have hle : 1#16 ≤ c := by simpa [BitVec.le_def] using hc
  rw [BitVec.toNat_sub_of_le hle]
  rfl

/-- RTU.RX keeps what holds of U3. -/
theorem RtuInv.receive {cfg : Config} {u : Rtu} {baud : BitVec 32} (b : Byte) (hl : cfg.legal = true) (hb : baud ≠ 0#32)
    (h : RtuInv cfg u) : RtuInv cfg (rtuReceive cfg baud u.win b).1 := by
  obtain ⟨e1, e2, e3, -⟩ := (legal_iff _).1 hl
  have hbd := h.bounded
  rcases rtuReceive_cases cfg baud u.win b with ⟨i, hf, he⟩ | ⟨hf, hc, he⟩ | ⟨hf, hc, he⟩ <;> rw [he]
  · exact rtuInv_empty cfg
  · refine ⟨(h.lanes.received b).drop _, by simp; omega, ?_, by simp; omega, ?_⟩
    · intro k t ht hk
      simp only [List.getElem?_drop, List.length_drop, received_length] at ht hk
      exact findMatch_eq_none hf _ t (by rw [received_length]; omega) ht
    · rintro c ⟨⟩
      exact timerLoad_bounds hb
  · refine ⟨h.lanes.received b, by simpa using hc, fun k t ht hk => findMatch_eq_none hf _ t hk ht, by simp, ?_⟩
    rintro c ⟨⟩
    exact timerLoad_bounds hb

/-- RTU.TICK keeps what holds of U3. -/
theorem RtuInv.elapse {cfg : Config} {u : Rtu} (h : RtuInv cfg u) : RtuInv cfg (rtuElapse u).1 := by
  rcases rtuElapse_cases u with ⟨h', he⟩ | ⟨c, h', hc, he⟩ | ⟨h', he⟩ <;> rw [he]
  · exact h
  · refine ⟨h.lanes, h.bounded, h.unmatched, by simpa [h'] using h.armed, ?_⟩
    rintro d ⟨⟩
    have h1 := h.count c h'
    have h2 : c.toNat ≠ 1 := fun h => hc (BitVec.eq_of_toNat_eq h)
    rw [sub_one_toNat h1.1]
    omega
  · exact rtuInv_empty cfg

/-- ASC.RX keeps what holds of U4. -/
theorem AscInv.receive {cfg : Config} {u : Asc} (c : Byte) (hl : cfg.legal = true) (h : AscInv cfg u) :
    AscInv cfg (ascReceive cfg.ascCap u c).1 := by
  rcases ascReceive_cases cfg.ascCap u c with
    ⟨hc, he⟩ | ⟨hc, hp, he⟩ | ⟨hc, hp, he⟩ | ⟨p, v, hc, hp, hx, he⟩ | ⟨p, hc, hp, hx, hx', he⟩ <;> rw [he]
  · exact ascInv_empty hl
  · exact ⟨h.total, by simpa using hc, h.room⟩
  · exact ascInv_empty hl
  · by_cases hcap : cfg.ascCap = some (u.acc.length + 1)
    · have ha : ascAppend cfg.ascCap u v = (Asc.reset, ascFlush (u.acc ++ [v])) := by simp [ascAppend, hcap]
      rw [ha]
      exact ascInv_empty hl
    · have ha : ascAppend cfg.ascCap u v = ({ acc := u.acc ++ [v], lrc := lrcStep u.lrc v, pend := none }, []) := by
        simp [ascAppend, hcap]
      rw [ha]
      refine ⟨by simp [lrcStep, h.total], by simp, fun m hm => ?_⟩
      have h1 := h.room m hm
      have h2 : m ≠ u.acc.length + 1 := fun e => hcap (by rw [hm, e])
      simp
      omega
  · exact ascInv_empty hl

end Sys2Proof.Machine
end

