-- ==== Sys2Proof/Laws/PerInstr.lean ====
section
/-! SUPPORT. The family TableRow: the word an instruction encodes to carries the match bits of its own row of
spec/opcode_table.json under the row's mask; the two default rows encode to words that no other row of their format matches. -/

namespace Sys2Proof.Laws.TableRow

/-- The bits of a word in 13 bits, the widest format. -/
def bits : OpWord → BitVec 13
  | .cmd w => w
  | .csel w => w.setWidth 13
  | .fc w => w.setWidth 13

/-- A word is in the format `p` and carries `m` under the mask `k`. -/
def Matches (w : OpWord) (p : Port) (m k : BitVec 13) : Prop := w.port = p ∧ bits w &&& k = m

/-- The match bits of the CMD rows, all under the mask 0x1F00. -/
def cmdMatches : List (BitVec 13) :=
  [0x0000#13, 0x0100#13, 0x0200#13, 0x0300#13, 0x0400#13, 0x0800#13, 0x0900#13, 0x0A00#13, 0x1000#13, 0x1100#13,
   0x1800#13]

/-- The match bits of the FC rows, all under the mask 0xFF. -/
def fcMatches : List (BitVec 13) :=
  [0x01#13, 0x02#13, 0x03#13, 0x04#13, 0x05#13, 0x06#13, 0x07#13, 0x08#13, 0x0F#13, 0x10#13, 0x11#13, 0x81#13,
   0x82#13, 0x83#13, 0x84#13, 0x85#13, 0x86#13, 0x87#13, 0x88#13, 0x8F#13, 0x90#13, 0x91#13]

/-- What the family says of an instruction. -/
def Statement : Instr → Prop
  | .sysReset => Matches (encode .sysReset) .cmd 0x0000#13 0x1F00#13
  | .crcInit => Matches (encode .crcInit) .cmd 0x0100#13 0x1F00#13
  | .crcUpd b => Matches (encode (.crcUpd b)) .cmd 0x0200#13 0x1F00#13
  | .lrcInit => Matches (encode .lrcInit) .cmd 0x0300#13 0x1F00#13
  | .lrcUpd b => Matches (encode (.lrcUpd b)) .cmd 0x0400#13 0x1F00#13
  | .rtuRx b => Matches (encode (.rtuRx b)) .cmd 0x0800#13 0x1F00#13
  | .rtuTick => Matches (encode .rtuTick) .cmd 0x0900#13 0x1F00#13
  | .rtuSend => Matches (encode .rtuSend) .cmd 0x0A00#13 0x1F00#13
  | .ascRx c => Matches (encode (.ascRx c)) .cmd 0x1000#13 0x1F00#13
  | .ascSend => Matches (encode .ascSend) .cmd 0x1100#13 0x1F00#13
  | .decFrame tag => Matches (encode (.decFrame tag)) .cmd 0x1800#13 0x1F00#13
  | .cmdReserved op b => (Instr.cmdReserved op b).wellFormed = true →
      ∀ m ∈ cmdMatches, ¬Matches (encode (.cmdReserved op b)) .cmd m 0x1F00#13
  | .cselNone => Matches (encode .cselNone) .csel 0x0000#13 0x0007#13
  | .decAq => Matches (encode .decAq) .csel 0x0001#13 0x0007#13
  | .decBools => Matches (encode .decBools) .csel 0x0002#13 0x0007#13
  | .decRegs => Matches (encode .decRegs) .csel 0x0003#13 0x0007#13
  | .decAb => Matches (encode .decAb) .csel 0x0004#13 0x0007#13
  | .decAr => Matches (encode .decAr) .csel 0x0005#13 0x0007#13
  | .decAqb => Matches (encode .decAqb) .csel 0x0006#13 0x0007#13
  | .decAqr => Matches (encode .decAqr) .csel 0x0007#13 0x0007#13
  | .fc01 => Matches (encode .fc01) .fc 0x0001#13 0x00FF#13
  | .fc02 => Matches (encode .fc02) .fc 0x0002#13 0x00FF#13
  | .fc03 => Matches (encode .fc03) .fc 0x0003#13 0x00FF#13
  | .fc04 => Matches (encode .fc04) .fc 0x0004#13 0x00FF#13
  | .fc05 => Matches (encode .fc05) .fc 0x0005#13 0x00FF#13
  | .fc06 => Matches (encode .fc06) .fc 0x0006#13 0x00FF#13
  | .fc07 => Matches (encode .fc07) .fc 0x0007#13 0x00FF#13
  | .fc08 => Matches (encode .fc08) .fc 0x0008#13 0x00FF#13
  | .fc0F => Matches (encode .fc0F) .fc 0x000F#13 0x00FF#13
  | .fc10 => Matches (encode .fc10) .fc 0x0010#13 0x00FF#13
  | .fc11 => Matches (encode .fc11) .fc 0x0011#13 0x00FF#13
  | .fc81 => Matches (encode .fc81) .fc 0x0081#13 0x00FF#13
  | .fc82 => Matches (encode .fc82) .fc 0x0082#13 0x00FF#13
  | .fc83 => Matches (encode .fc83) .fc 0x0083#13 0x00FF#13
  | .fc84 => Matches (encode .fc84) .fc 0x0084#13 0x00FF#13
  | .fc85 => Matches (encode .fc85) .fc 0x0085#13 0x00FF#13
  | .fc86 => Matches (encode .fc86) .fc 0x0086#13 0x00FF#13
  | .fc87 => Matches (encode .fc87) .fc 0x0087#13 0x00FF#13
  | .fc88 => Matches (encode .fc88) .fc 0x0088#13 0x00FF#13
  | .fc8F => Matches (encode .fc8F) .fc 0x008F#13 0x00FF#13
  | .fc90 => Matches (encode .fc90) .fc 0x0090#13 0x00FF#13
  | .fc91 => Matches (encode .fc91) .fc 0x0091#13 0x00FF#13
  | .fcUnknown fc => (Instr.fcUnknown fc).wellFormed = true →
      ∀ m ∈ fcMatches, ¬Matches (encode (.fcUnknown fc)) .fc m 0x00FF#13

/-- A command word under the mask 0x1F00 is its `op`. -/
theorem append_and_mask (op : BitVec 5) (b : Byte) : (op ++ b) &&& 0x1F00#13 = op ++ 0x00#8 := by
  have h : (0x1F00#13) = (0x1F#5) ++ (0x00#8) := rfl
  rw [h, BitVec.and_append]
  have h5 : op &&& 0x1F#5 = op := by
    revert op
    decide
  rw [h5, BitVec.and_zero]

/-- A command word whose `op` is `op` matches the row of that `op`. -/
theorem matches_cmd (op : BitVec 5) (b : Byte) : Matches (.cmd (op ++ b)) .cmd (op ++ 0x00#8) 0x1F00#13 :=
  ⟨rfl, append_and_mask op b⟩

theorem sysReset : Statement .sysReset := ⟨rfl, by decide⟩

theorem crcInit : Statement .crcInit := ⟨rfl, by decide⟩

theorem crcUpd (b : Byte) : Statement (.crcUpd b) := matches_cmd 0x02#5 b

theorem lrcInit : Statement .lrcInit := ⟨rfl, by decide⟩

theorem lrcUpd (b : Byte) : Statement (.lrcUpd b) := matches_cmd 0x04#5 b

theorem rtuRx (b : Byte) : Statement (.rtuRx b) := matches_cmd 0x08#5 b

theorem rtuTick : Statement .rtuTick := ⟨rfl, by decide⟩

theorem rtuSend : Statement .rtuSend := ⟨rfl, by decide⟩

theorem ascRx (c : Byte) : Statement (.ascRx c) := matches_cmd 0x10#5 c

theorem ascSend : Statement .ascSend := ⟨rfl, by decide⟩

theorem decFrame (tag : BitVec 2) : Statement (.decFrame tag) := matches_cmd 0x18#5 _

theorem cmdReserved (op : BitVec 5) (b : Byte) : Statement (.cmdReserved op b) := by
  intro h m hm hx
  have hx : (op ++ b) &&& 0x1F00#13 = m := hx.2
  rw [append_and_mask] at hx
  rw [← hx] at hm
  have key : ∀ op : BitVec 5, (!assignedOps.contains op) = true → op ++ 0x00#8 ∉ cmdMatches := by decide
  exact key op h hm

theorem cselNone : Statement .cselNone := ⟨rfl, by decide⟩

theorem decAq : Statement .decAq := ⟨rfl, by decide⟩

theorem decBools : Statement .decBools := ⟨rfl, by decide⟩

theorem decRegs : Statement .decRegs := ⟨rfl, by decide⟩

theorem decAb : Statement .decAb := ⟨rfl, by decide⟩

theorem decAr : Statement .decAr := ⟨rfl, by decide⟩

theorem decAqb : Statement .decAqb := ⟨rfl, by decide⟩

theorem decAqr : Statement .decAqr := ⟨rfl, by decide⟩

theorem fc01 : Statement .fc01 := ⟨rfl, by decide⟩

theorem fc02 : Statement .fc02 := ⟨rfl, by decide⟩

theorem fc03 : Statement .fc03 := ⟨rfl, by decide⟩

theorem fc04 : Statement .fc04 := ⟨rfl, by decide⟩

theorem fc05 : Statement .fc05 := ⟨rfl, by decide⟩

theorem fc06 : Statement .fc06 := ⟨rfl, by decide⟩

theorem fc07 : Statement .fc07 := ⟨rfl, by decide⟩

theorem fc08 : Statement .fc08 := ⟨rfl, by decide⟩

theorem fc0F : Statement .fc0F := ⟨rfl, by decide⟩

theorem fc10 : Statement .fc10 := ⟨rfl, by decide⟩

theorem fc11 : Statement .fc11 := ⟨rfl, by decide⟩

theorem fc81 : Statement .fc81 := ⟨rfl, by decide⟩

theorem fc82 : Statement .fc82 := ⟨rfl, by decide⟩

theorem fc83 : Statement .fc83 := ⟨rfl, by decide⟩

theorem fc84 : Statement .fc84 := ⟨rfl, by decide⟩

theorem fc85 : Statement .fc85 := ⟨rfl, by decide⟩

theorem fc86 : Statement .fc86 := ⟨rfl, by decide⟩

theorem fc87 : Statement .fc87 := ⟨rfl, by decide⟩

theorem fc88 : Statement .fc88 := ⟨rfl, by decide⟩

theorem fc8F : Statement .fc8F := ⟨rfl, by decide⟩

theorem fc90 : Statement .fc90 := ⟨rfl, by decide⟩

theorem fc91 : Statement .fc91 := ⟨rfl, by decide⟩

theorem fcUnknown (fc : Byte) : Statement (.fcUnknown fc) := by
  intro h m hm hx
  have hx : fc.setWidth 13 &&& 0x00FF#13 = m := hx.2
  rw [← hx] at hm
  have key : ∀ fc : Byte, (!populatedCodes.contains fc) = true → fc.setWidth 13 &&& 0x00FF#13 ∉ fcMatches := by decide
  exact key fc h hm

end Sys2Proof.Laws.TableRow
end

