-- ==== Sys2Proof/Tests/Slice0.lean ====
section
/-! SUPPORT. The model's own tests. The words are written out bit by bit from 30_encoding.md R119, R120, R124 and R125; every
expected result is a value of 95_test_vectors.md, named in the comment above it, or of a rule named there. The theorems whose
names begin with `test_hyps_` show, for each obligation with hypotheses, states and operands that meet them together, one
for each clause. -/

namespace Sys2Proof.Tests

open Sys2Proof.Machine

set_option maxRecDepth 8000

/-- The state a step leaves, if it leaves one. -/
def after (o : Outcome) : Option State :=
  match o with
  | .next t => some t
  | .fault _ => none
  | .refused _ => none

/-- What an operation returns, if it completes. -/
def result (o : Outcome) : Option OpResult := (after o).map (fun t => t.result)

/-- The refusal of an operation, if it is refused. -/
def refusal (o : Outcome) : Option Refusal :=
  match o with
  | .next _ => none
  | .fault _ => none
  | .refused r => some r

/-- The reset state with an operand and a format select. -/
def withOpb (opb : List Byte) (fmtSel : Byte) : State :=
  { State.reset with lines := { State.reset.lines with opb := opb, fmtSel := fmtSel } }

/-- The reset state with a window, whose timer runs from 7. -/
def withWin (win : List (Byte × Half)) : State :=
  { State.reset with rtu := { win := win.map (fun t => { byte := t.1, crc := t.2 }), timer := some 7#16 } }

/-- The reset state with a U4. -/
def withAsc (acc : List Byte) (lrc : Byte) (pend : Option Byte) : State :=
  { State.reset with asc := { acc := acc, lrc := lrc, pend := pend } }

/-- The frame of 95_test_vectors.md S1 before its last byte: bytes and lanes as the table there gives them. -/
def s1 : State :=
  withWin [(0x04#8, 0x0098#16), (0x01#8, 0xDBC6#16), (0x00#8, 0x11E3#16), (0x0A#8, 0x35C7#16), (0x00#8, 0x09B5#16),
    (0x0D#8, 0x79C5#16), (0xDD#8, 0x197F#16)]

/-! Ill-formed terms, one for each check of `Instr.wellFormed`. -/

/-- An assigned `op` is no reserved command. -/
theorem test_wf_assigned_op_refused : (Instr.cmdReserved 0x02#5 0x00#8).wellFormed = false := by decide

/-- A populated function code is no unknown one. -/
theorem test_wf_populated_code_refused : (Instr.fcUnknown 0x81#8).wellFormed = false := by decide

/-- The tag kind 3 is reserved (30_encoding.md R122). -/
theorem test_wf_tag_3_refused : (Instr.decFrame 3#2).wellFormed = false := by decide

theorem test_wf_accepted :
    (Instr.cmdReserved 0x1F#5 0x00#8).wellFormed = true ∧ (Instr.fcUnknown 0x00#8).wellFormed = true ∧
    (Instr.decFrame 2#2).wellFormed = true ∧ (Instr.crcUpd 0xFF#8).wellFormed = true := by decide

/-! Decoding: the five bits of `op`, then the eight of `b`. -/

theorem test_decode_sysReset : decode (.cmd 0b00000_00000000#13) = .sysReset := by decide

theorem test_decode_crcInit : decode (.cmd 0b00001_00000000#13) = .crcInit := by decide

theorem test_decode_crcUpd : decode (.cmd 0b00010_11011101#13) = (.crcUpd 0b11011101#8) := by decide

theorem test_decode_lrcInit : decode (.cmd 0b00011_00000000#13) = .lrcInit := by decide

theorem test_decode_lrcUpd : decode (.cmd 0b00100_11100100#13) = (.lrcUpd 0b11100100#8) := by decide

theorem test_decode_rtuRx : decode (.cmd 0b01000_10011000#13) = (.rtuRx 0b10011000#8) := by decide

theorem test_decode_rtuTick : decode (.cmd 0b01001_00000000#13) = .rtuTick := by decide

theorem test_decode_rtuSend : decode (.cmd 0b01010_00000000#13) = .rtuSend := by decide

theorem test_decode_ascRx : decode (.cmd 0b10000_00111010#13) = (.ascRx 0b00111010#8) := by decide

theorem test_decode_ascSend : decode (.cmd 0b10001_00000000#13) = .ascSend := by decide

theorem test_decode_decFrame : decode (.cmd 0b11000_00000010#13) = (.decFrame 0b10#2) := by decide

/-- The reserved commands that 95_test_vectors.md section 2.7 names: 0x0500, 0x0B00, 0x1200, 0x1F00. -/
theorem test_decode_cmdReserved :
    decode (.cmd 0b00101_00000000#13) = .cmdReserved 0x05#5 0#8 ∧ decode (.cmd 0b01011_00000000#13) = .cmdReserved 0x0B#5 0#8 ∧
    decode (.cmd 0b10010_00000000#13) = .cmdReserved 0x12#5 0#8 ∧ decode (.cmd 0b11111_00000000#13) = .cmdReserved 0x1F#5 0#8 := by
  decide

theorem test_decode_cselNone : decode (.csel 0b000#3) = .cselNone := by decide

theorem test_decode_decAq : decode (.csel 0b001#3) = .decAq := by decide

theorem test_decode_decBools : decode (.csel 0b010#3) = .decBools := by decide

theorem test_decode_decRegs : decode (.csel 0b011#3) = .decRegs := by decide

theorem test_decode_decAb : decode (.csel 0b100#3) = .decAb := by decide

theorem test_decode_decAr : decode (.csel 0b101#3) = .decAr := by decide

theorem test_decode_decAqb : decode (.csel 0b110#3) = .decAqb := by decide

theorem test_decode_decAqr : decode (.csel 0b111#3) = .decAqr := by decide

theorem test_decode_fc01 : decode (.fc 0b0000_0001#8) = .fc01 := by decide

theorem test_decode_fc02 : decode (.fc 0b0000_0010#8) = .fc02 := by decide

theorem test_decode_fc03 : decode (.fc 0b0000_0011#8) = .fc03 := by decide

theorem test_decode_fc04 : decode (.fc 0b0000_0100#8) = .fc04 := by decide

theorem test_decode_fc05 : decode (.fc 0b0000_0101#8) = .fc05 := by decide

theorem test_decode_fc06 : decode (.fc 0b0000_0110#8) = .fc06 := by decide

theorem test_decode_fc07 : decode (.fc 0b0000_0111#8) = .fc07 := by decide

theorem test_decode_fc08 : decode (.fc 0b0000_1000#8) = .fc08 := by decide

theorem test_decode_fc0F : decode (.fc 0b0000_1111#8) = .fc0F := by decide

theorem test_decode_fc10 : decode (.fc 0b0001_0000#8) = .fc10 := by decide

theorem test_decode_fc11 : decode (.fc 0b0001_0001#8) = .fc11 := by decide

theorem test_decode_fc81 : decode (.fc 0b1000_0001#8) = .fc81 := by decide

theorem test_decode_fc82 : decode (.fc 0b1000_0010#8) = .fc82 := by decide

theorem test_decode_fc83 : decode (.fc 0b1000_0011#8) = .fc83 := by decide

theorem test_decode_fc84 : decode (.fc 0b1000_0100#8) = .fc84 := by decide

theorem test_decode_fc85 : decode (.fc 0b1000_0101#8) = .fc85 := by decide

theorem test_decode_fc86 : decode (.fc 0b1000_0110#8) = .fc86 := by decide

theorem test_decode_fc87 : decode (.fc 0b1000_0111#8) = .fc87 := by decide

theorem test_decode_fc88 : decode (.fc 0b1000_1000#8) = .fc88 := by decide

theorem test_decode_fc8F : decode (.fc 0b1000_1111#8) = .fc8F := by decide

theorem test_decode_fc90 : decode (.fc 0b1001_0000#8) = .fc90 := by decide

theorem test_decode_fc91 : decode (.fc 0b1001_0001#8) = .fc91 := by decide

/-- The codes 0x00, 0x09, 0x2B and 0x92, next to populated ones. -/
theorem test_decode_fcUnknown :
    decode (.fc 0b0000_0000#8) = .fcUnknown 0x00#8 ∧ decode (.fc 0b0000_1001#8) = .fcUnknown 0x09#8 ∧
    decode (.fc 0b0010_1011#8) = .fcUnknown 0x2B#8 ∧ decode (.fc 0b1001_0010#8) = .fcUnknown 0x92#8 := by decide

/-- `b` is ignored where an operation takes none, and `b[7:2]` of DEC.FRAME is (R120). -/
theorem test_decode_ignored_bits :
    decode (.cmd 0b00001_11111111#13) = .crcInit ∧ decode (.cmd 0b11000_11111101#13) = .decFrame 0b01#2 := by decide

/-- Bytes that are no word of a format are rejected by name. -/
theorem test_decodeBytes_rejects :
    decodeBytes .cmd [0x00#8] = .error .tooShort ∧ decodeBytes .cmd [0x00#8, 0x20#8] = .error .cmdHighBits ∧
    decodeBytes .csel [0x08#8] = .error .cselHighBits ∧ decodeBytes .fc [0x01#8, 0x00#8] = .error .tooLong := by
  refine ⟨rfl, rfl, rfl, rfl⟩

/-- A command word lies low byte first (log 11): 0x0898 is RTU.RX 98. -/
theorem test_decodeBytes_cmd : decodeBytes .cmd [0x98#8, 0x08#8] = .ok (.rtuRx 0x98#8) := by rfl

/-- A table word reaches the decoder in its format (log 12). -/
theorem test_decodeTableWord :
    decodeTableWord 16 0x0898 = some (.rtuRx 0x98#8) ∧ decodeTableWord 3 6 = some .decAqb ∧
    decodeTableWord 8 0x91 = some .fc91 ∧ decodeTableWord 16 0x2000 = none := by decide

/-- A placed table word is what the next step runs. -/
theorem test_withFetchWord : result (step (State.reset.withFetchWord 16 0x0204)) = some (.crc 0x83BE#16) := by decide

/-! One step of each operation. -/

/-- SYS.RESET (section 2.7): held bytes are discarded without a report. -/
theorem test_sysReset : after (exec .sysReset { s1 with asc := { acc := [0x04#8], lrc := 0x04#8, pend := some 0x30#8 } }) =
    some State.reset := by decide

/-- P5, step 1. -/
theorem test_crcInit : (after (exec .crcInit { State.reset with ck := { crc := 0x1234#16, lrc := 0x56#8 } })).map (fun t => t.ck) =
    some { crc := 0xFFFF#16, lrc := 0x56#8 } := by decide

/-- Section 2.1: 0xFFFF with 04. -/
theorem test_crcUpd_seed : (after (exec (.crcUpd 0x04#8) State.reset)).map (fun t => (t.ck.crc, t.result)) =
    some (0x83BE#16, .crc 0x83BE#16) := by decide

/-- Section 2.1: 0x8000 with 00, a pure shift. -/
theorem test_crcUpd_shift :
    (after (exec (.crcUpd 0x00#8) { State.reset with ck := { crc := 0x8000#16, lrc := 0#8 } })).map (fun t => t.so0) =
    some 0x00080#17 := by decide

/-- P5, step 10. -/
theorem test_lrcInit : (after (exec .lrcInit { State.reset with ck := { crc := 0x1234#16, lrc := 0x56#8 } })).map (fun t => t.ck) =
    some { crc := 0x1234#16, lrc := 0x00#8 } := by decide

/-- P5, step 17: 0x1C and E4 are 0, and `lrc_zero` is 1. -/
theorem test_lrcUpd : (after (exec (.lrcUpd 0xE4#8) { State.reset with ck := { crc := 0#16, lrc := 0x1C#8 } })).map
    (fun t => (t.so1, t.result)) = some (0x100#9, .lrc 0x00#8) := by decide

/-- S1: the last byte of the frame. -/
theorem test_rtuRx_match : (after (exec (.rtuRx 0x98#8) s1)).map (fun t => (t.rtu, t.reported)) =
    some (Rtu.reset, [{ kind := .valid, bytes := [0x04#8, 0x01#8, 0x00#8, 0x0A#8, 0x00#8, 0x0D#8] }]) := by decide

/-- V5: after `FF FF` lane 0 is 0000 but the candidate is too short; armed, 7. -/
theorem test_rtuRx_short : (after (exec (.rtuRx 0xFF#8) (withWin [(0xFF#8, 0x00FF#16)]))).map (fun t => (t.rtu, t.reported)) =
    some ({ win := [{ byte := 0xFF#8, crc := 0x0000#16 }, { byte := 0xFF#8, crc := 0x00FF#16 }], timer := some 7#16 }, []) := by
  decide

/-- V2: a tick above 1. -/
theorem test_rtuTick_count : (after (exec .rtuTick (withWin [(0x11#8, 0x0#16)]))).map (fun t => (t.rtu.timer, t.reported)) =
    some (some 6#16, []) := by decide

/-- P2, step 15: the last tick, and the decoded frame of its report. -/
theorem test_rtuTick_flush :
    (after (exec .rtuTick { withWin [(0x11#8, 0x0#16), (0x22#8, 0x0#16)] with
      rtu := { (withWin [(0x11#8, 0x0#16), (0x22#8, 0x0#16)]).rtu with timer := some 1#16 } })).map (fun t => (t.rtu, t.result)) =
    some (Rtu.reset, .reports
      [{ report := { kind := .errored, bytes := [0x11#8, 0x22#8] }
         frame := { tag := .errored
                    body := some { slaveAddr := 0x11#8, funcCode := 0x22#8, fcErr := false, descIdx := 0x22#7, fcKnown := false,
                                   master := none, slave := none } } }]) := by decide

/-- V14. -/
theorem test_rtuSend : result (exec .rtuSend (withOpb [0x04#8, 0x01#8, 0x00#8, 0x0A#8, 0x00#8, 0x0D#8] 0x01#8)) =
    some (.bytes [0x04#8, 0x01#8, 0x00#8, 0x0A#8, 0x00#8, 0x0D#8, 0xDD#8, 0x98#8]) := by decide

/-- V15. -/
theorem test_rtuSend_empty : result (exec .rtuSend State.reset) = some (.bytes [0xFF#8, 0xFF#8]) := by decide

/-- A1, P3: the first LF. -/
theorem test_ascRx_valid :
    (after (exec (.ascRx 0x0A#8) (withAsc [0x04#8, 0x01#8, 0x00#8, 0x0A#8, 0x00#8, 0x0D#8, 0xE4#8] 0x00#8 (some 0x0D#8)))).map
      (fun t => (t.asc, t.reported)) =
    some (Asc.reset, [{ kind := .valid, bytes := [0x04#8, 0x01#8, 0x00#8, 0x0A#8, 0x00#8, 0x0D#8] }]) := by decide

/-- A3, A14: the pair `0a` in lower case is the byte 0A. -/
theorem test_ascRx_pair : (after (exec (.ascRx 0x61#8) (withAsc [0x04#8] 0x04#8 (some 0x30#8)))).map (fun t => (t.asc, t.reported)) =
    some ({ acc := [0x04#8, 0x0A#8], lrc := 0x0E#8, pend := none }, []) := by decide

/-- A21. -/
theorem test_ascSend : result (exec .ascSend (withOpb [0xAB#8, 0xCD#8, 0xEF#8] 0x01#8)) =
    some (.bytes [0x3A#8, 0x41#8, 0x42#8, 0x43#8, 0x44#8, 0x45#8, 0x46#8, 0x39#8, 0x39#8, 0x0D#8, 0x0A#8]) := by decide

/-- P4, step 2. -/
theorem test_decFrame : result (exec (.decFrame 2#2) (withOpb [0x11#8, 0x03#8, 0x00#8, 0x6B#8, 0x00#8, 0x03#8] 0x01#8)) =
    some (.frame
      { tag := .sent
        body := some { slaveAddr := 0x11#8, funcCode := 0x03#8, fcErr := false, descIdx := 0x03#7, fcKnown := true,
                       master := some (.ok (.aq 107#16 3#16)),
                       slave := some (.err { kind := .lenDecl, expected := 1, actual := 4 }) } }) := by decide

/-- Section 2.7: 0x1803. -/
theorem test_decFrame_tag_3 : refusal (exec (.decFrame 3#2) State.reset) = some .reservedTag := by decide

/-- Section 2.7: 0x0500. -/
theorem test_cmdReserved : refusal (exec (.cmdReserved 0x05#5 0x00#8) State.reset) = some (.reservedCommand 0x05#5) := by decide

/-- 43_dispatch.md R221. -/
theorem test_cselNone : result (exec .cselNone (withOpb [0x00#8] 0x01#8)) = some (.codec none) := by decide

/-- Section 2.6, DEC.AQ. -/
theorem test_decAq : result (exec .decAq (withOpb [0x00#8, 0x0A#8, 0x00#8, 0x0D#8] 0x01#8)) =
    some (.codec (some (.ok (.aq 10#16 13#16)))) := by decide

theorem test_decAq_short : result (exec .decAq (withOpb [0x00#8, 0x0A#8, 0x00#8] 0x01#8)) =
    some (.codec (some (.err { kind := .lenNe, expected := 4, actual := 3 }))) := by decide

/-- Section 2.6, DEC.BOOLS. -/
theorem test_decBools : result (exec .decBools (withOpb [0x01#8, 0x80#8] 0x01#8)) =
    some (.codec (some (.ok (.bools 1#8 [true, false, false, false, false, false, false, false])))) := by decide

theorem test_decBools_long : result (exec .decBools (withOpb [0x01#8, 0x80#8, 0x00#8] 0x01#8)) =
    some (.codec (some (.err { kind := .lenDecl, expected := 2, actual := 3 }))) := by decide

/-- Section 2.6, DEC.REGS with `fmt_sel` 0x0F. -/
theorem test_decRegs : result (exec .decRegs (withOpb [0x04#8, 0xFF#8, 0xFF#8, 0xFF#8, 0xFE#8] 0x0F#8)) =
    some (.codec (some (.ok (.regs 4#8
      [{ fmt := .u16, elems := [.unsigned 65535, .unsigned 65534] }, { fmt := .i16, elems := [.signed (-1), .signed (-2)] },
       { fmt := .u32, elems := [.unsigned 4294967294] }, { fmt := .i32, elems := [.signed (-2)] }])))) := by decide

/-- Section 2.6: `[06 00 01 00 02 00 03]` with 0x05. -/
theorem test_decRegs_width :
    result (exec .decRegs (withOpb [0x06#8, 0x00#8, 0x01#8, 0x00#8, 0x02#8, 0x00#8, 0x03#8] 0x05#8)) =
    some (.codec (some (.err { kind := .widthDiv, expected := 4, actual := 6 }))) := by decide

/-- Section 2.6, DEC.AB. -/
theorem test_decAb : result (exec .decAb (withOpb [0x00#8, 0xAC#8, 0x00#8, 0xFF#8] 0x01#8)) =
    some (.codec (some (.ok (.ab 172#16 true)))) := by decide

theorem test_decAb_value : result (exec .decAb (withOpb [0x00#8, 0xAC#8, 0xFF#8, 0xFF#8] 0x01#8)) =
    some (.codec (some (.err { kind := .boolVal, expected := 0xFF00, actual := 0xFFFF }))) := by decide

/-- Section 2.6, DEC.AR. -/
theorem test_decAr : result (exec .decAr (withOpb [0x00#8, 0x01#8, 0xFF#8, 0xFF#8] 0x01#8)) =
    some (.codec (some (.ok (.ar 1#16 65535#16)))) := by decide

/-- Section 2.6, DEC.AQB. -/
theorem test_decAqb : result (exec .decAqb (withOpb [0x00#8, 0x13#8, 0x00#8, 0x0A#8, 0x01#8, 0xCD#8] 0x01#8)) =
    some (.codec (some (.ok (.aqb 19#16 10#16 1#8 [true, true, false, false, true, true, false, true])))) := by decide

theorem test_decAqb_rest : result (exec .decAqb (withOpb [0x00#8, 0x13#8, 0x00#8, 0x0A#8, 0x02#8, 0xCD#8] 0x01#8)) =
    some (.codec (some (.err { kind := .lenDecl, expected := 3, actual := 2 }))) := by decide

/-- Section 2.6, DEC.AQR. -/
theorem test_decAqr :
    result (exec .decAqr (withOpb [0x0F#8, 0xA3#8, 0x00#8, 0x02#8, 0x04#8, 0x00#8, 0x14#8, 0x07#8, 0xD0#8] 0x01#8)) =
    some (.codec (some (.ok (.aqr 4003#16 2#16 4#8 [{ fmt := .u16, elems := [.unsigned 20, .unsigned 2000] }])))) := by decide

theorem test_decAqr_short : result (exec .decAqr (withOpb [0x00#8, 0x01#8, 0x00#8, 0x02#8] 0x01#8)) =
    some (.codec (some (.err { kind := .tooShort, expected := 5, actual := 4 }))) := by decide

/-- Section 2.5: function code 0x02, both directions fit. -/
theorem test_fc02 : result (exec .fc02 (withOpb [0x03#8, 0xAC#8, 0xDB#8, 0x35#8] 0x01#8)) =
    some (.dispatched
      { known := true, fcErr := false, descIdx := 0x02#7, request := some (.ok (.aq 940#16 56117#16)),
        response := some (.ok (.bools 3#8
          [true, false, true, false, true, true, false, false, true, true, false, true, true, false, true, true,
           false, false, true, true, false, true, false, true])) }) := by decide

/-- Section 2.5: function code 0x01. -/
theorem test_fc01 : result (exec .fc01 (withOpb [0x00#8, 0x0A#8, 0x00#8, 0x0D#8] 0x01#8)) =
    some (.dispatched
      { known := true, fcErr := false, descIdx := 0x01#7, request := some (.ok (.aq 10#16 13#16)),
        response := some (.err { kind := .lenDecl, expected := 1, actual := 4 }) }) := by decide

/-- Section 2.5: function code 0x03. -/
theorem test_fc03 : result (exec .fc03 (withOpb [0x06#8, 0x02#8, 0x2B#8, 0x00#8, 0x00#8, 0x00#8, 0x64#8] 0x01#8)) =
    some (.dispatched
      { known := true, fcErr := false, descIdx := 0x03#7, request := some (.err { kind := .lenNe, expected := 4, actual := 7 }),
        response := some (.ok (.regs 6#8 [{ fmt := .u16, elems := [.unsigned 555, .unsigned 0, .unsigned 100] }])) }) := by decide

/-- Section 2.5: function code 0x05, both directions errored. -/
theorem test_fc05 : result (exec .fc05 (withOpb [0x00#8, 0xAC#8, 0x12#8, 0x34#8] 0x01#8)) =
    some (.dispatched
      { known := true, fcErr := false, descIdx := 0x05#7,
        request := some (.err { kind := .boolVal, expected := 0xFF00, actual := 0x1234 }),
        response := some (.err { kind := .boolVal, expected := 0xFF00, actual := 0x1234 }) }) := by decide

/-- Section 2.5: function code 0x06. -/
theorem test_fc06 : result (exec .fc06 (withOpb [0x00#8, 0x01#8, 0x00#8, 0x03#8] 0x01#8)) =
    some (.dispatched
      { known := true, fcErr := false, descIdx := 0x06#7, request := some (.ok (.ar 1#16 3#16)),
        response := some (.ok (.ar 1#16 3#16)) }) := by decide

/-- Section 2.5: function codes 0x07, 0x08 and 0x11. -/
theorem test_fc07_fc08_fc11 :
    result (exec .fc07 State.reset) =
      some (.dispatched { known := true, fcErr := false, descIdx := 0x07#7, request := none, response := none }) ∧
    result (exec .fc08 (withOpb [0x00#8, 0x00#8, 0xA5#8, 0x37#8] 0x01#8)) =
      some (.dispatched { known := true, fcErr := false, descIdx := 0x08#7, request := none, response := none }) ∧
    result (exec .fc11 State.reset) =
      some (.dispatched { known := true, fcErr := false, descIdx := 0x11#7, request := none, response := none }) := by decide

/-- Section 2.5: function code 0x0F, a response. -/
theorem test_fc0F : result (exec .fc0F (withOpb [0x00#8, 0x13#8, 0x00#8, 0x0A#8] 0x01#8)) =
    some (.dispatched
      { known := true, fcErr := false, descIdx := 0x0F#7, request := some (.err { kind := .tooShort, expected := 5, actual := 4 }),
        response := some (.ok (.aq 19#16 10#16)) }) := by decide

/-- Section 2.5: function code 0x10, a request (90_conflicts.md C6). -/
theorem test_fc10 : result (exec .fc10 (withOpb [0x0F#8, 0xA3#8, 0x00#8, 0x02#8, 0x04#8, 0x00#8, 0x14#8, 0x07#8, 0xD0#8] 0x01#8)) =
    some (.dispatched
      { known := true, fcErr := false, descIdx := 0x10#7,
        request := some (.ok (.aqr 4003#16 2#16 4#8 [{ fmt := .u16, elems := [.unsigned 20, .unsigned 2000] }])),
        response := some (.err { kind := .lenNe, expected := 4, actual := 9 }) }) := by decide

/-- Section 2.5: `[11 83 02]`. -/
theorem test_fc83 : result (exec .fc83 (withOpb [0x02#8] 0x01#8)) =
    some (.dispatched { known := true, fcErr := true, descIdx := 0x03#7, request := none, response := none }) := by decide

/-- Section 2.5: `[11 2B 0E 01 00]`. -/
theorem test_fcUnknown : result (exec (.fcUnknown 0x2B#8) (withOpb [0x0E#8, 0x01#8, 0x00#8] 0x01#8)) =
    some (.dispatched { known := false, fcErr := false, descIdx := 0x2B#7, request := none, response := none }) := by decide

/-! Witnesses for the hypotheses of the obligations. -/

/-- A state that has the invariant and in which something is under way: one byte in the window, one in the buffer, one held. -/
def busy : State :=
  { withWin [(0x11#8, 0x4C7F#16)] with asc := { acc := [0x04#8], lrc := 0x04#8, pend := some 0x30#8 } }

theorem test_busy_inv : busy.Inv where
  legal := by decide
  lanes := by
    rintro (_ | k) t h
    · cases h
      decide
    · cases h
  bounded := by decide
  unmatched := by
    rintro (_ | k) t h _
    · cases h
      decide
    · cases h
  armed := by decide
  count := by
    rintro c ⟨⟩
    decide
  total := by decide
  held := by decide
  room := by rintro m ⟨⟩

/-- A small configuration: a ceiling of 4 entries, batches of 1, matches from 4 bytes. -/
def small : Config := { winCeiling := 4, evictBatch := 1, minMatchLen := 4, ascCap := some 2, sendMax := some 1 }

theorem test_hyps_DecodeEncodeRoundTrip :
    (Instr.cmdReserved 0x1F#5 0xFF#8).wellFormed = true ∧ (Instr.fcUnknown 0x92#8).wellFormed = true := by decide

theorem test_hyps_StepRunsDecodedOperation :
    (State.reset.withFetchWord 16 0x0204).pending = { word := .cmd 0x0204#13, lines := State.reset.lines } :: [] ∧
    State.reset.pending = [] := by decide

theorem test_hyps_TimerLoadValue : (1#32 : BitVec 32) ≠ 0#32 ∧ (0xFFFFFFFF#32 : BitVec 32) ≠ 0#32 := by decide

/-- A match behind one byte of garbage, at offset 1: `[11 FF FF 00]` and then 00, where `[FF FF]` is its own trailer's start. -/
theorem test_hyps_RtuRxMatch : ∃ (s : State) (b : Byte) (i : Nat), 0 < i ∧ s.lines.baud ≠ 0#32 ∧
    i + s.cfg.minMatchLen ≤ (winBytes s.rtu.win ++ [b]).length ∧
    (∃ t, (received s.rtu.win b)[i]? = some t ∧ t.crc = 0x0000#16) ∧
    (∀ k t, k < i → (received s.rtu.win b)[k]? = some t → t.crc ≠ 0x0000#16) := by
  refine ⟨withWin ([0x11#8, 0xFF#8, 0xFF#8, 0x00#8].foldl received [] |>.map (fun t => (t.byte, t.crc))), 0x00#8, 1, by decide,
    by decide, by decide, ⟨_, rfl, by decide⟩, ?_⟩
  rintro (_ | k) t hk h
  · cases h
    decide
  · omega

/-- A window at its ceiling, so that the byte evicts; no offset is eligible but 0 and 1. -/
theorem test_hyps_RtuRxWithoutMatch_evicts : ∃ (s : State) (b : Byte), s.lines.baud ≠ 0#32 ∧
    (∀ k t, k + s.cfg.minMatchLen ≤ (winBytes s.rtu.win ++ [b]).length → (received s.rtu.win b)[k]? = some t → t.crc ≠ 0x0000#16) ∧
    s.cfg.winCeiling < (winBytes s.rtu.win ++ [b]).length := by
  refine ⟨{ withWin ([0x00#8, 0x00#8, 0x00#8, 0x00#8].foldl received [] |>.map (fun t => (t.byte, t.crc))) with cfg := small },
    0x00#8, by decide, ?_, by decide⟩
  rintro (_ | _ | k) t hk h
  · cases h
    decide
  · cases h
    decide
  · have : k + 1 + 1 + 4 ≤ 5 := hk
    omega

/-- A byte into an empty window; no offset is eligible. -/
theorem test_hyps_RtuRxWithoutMatch_stays : State.reset.lines.baud ≠ 0#32 ∧
    (∀ k t, k + State.reset.cfg.minMatchLen ≤ (winBytes State.reset.rtu.win ++ [0x11#8]).length →
      (received State.reset.rtu.win 0x11#8)[k]? = some t → t.crc ≠ 0x0000#16) ∧
    (winBytes State.reset.rtu.win ++ [0x11#8]).length ≤ State.reset.cfg.winCeiling := by
  refine ⟨by decide, ?_, by decide⟩
  intro k t hk _
  have : k + 4 ≤ 1 := hk
  omega

theorem test_hyps_RtuRxBounds : ∃ s : State, s.Inv ∧ s.lines.baud ≠ 0#32 := ⟨busy, test_busy_inv, by decide⟩

theorem test_hyps_RtuRxZeroBaudRefused :
    ({ State.reset with lines := { State.reset.lines with baud := 0#32 } } : State).lines.baud = 0#32 := by decide

theorem test_hyps_RtuTickEffect :
    State.reset.rtu.timer = none ∧
    (({ State.reset with rtu := { win := [], timer := some 2#16 } } : State).rtu.timer = some 2#16 ∧ 2 ≤ (2#16).toNat) ∧
    (({ State.reset with rtu := { win := [], timer := some 1#16 } } : State).rtu.timer = some 1#16 ∧
      ({ State.reset with rtu := { win := [], timer := some 1#16 } } : State).rtu.win = []) ∧
    (({ busy with rtu := { busy.rtu with timer := some 1#16 } } : State).rtu.timer = some 1#16 ∧
      ({ busy with rtu := { busy.rtu with timer := some 1#16 } } : State).rtu.win ≠ []) := by decide

/-- Both clauses: 6 and 7 ticks. -/
theorem test_hyps_SilenceFlushesOnce : busy.rtu.timer = some 7#16 ∧ 1 ≤ (7#16).toNat ∧ busy.rtu.win ≠ [] ∧
    6 < (7#16).toNat ∧ (7#16).toNat ≤ 7 := by decide

/-- A payload of exactly `SEND_MAX` bytes; and any payload where it is not set. -/
theorem test_hyps_RtuSendEffect :
    (∀ m, ({ withOpb [0x01#8] 0x01#8 with cfg := small } : State).cfg.sendMax = some m →
      ({ withOpb [0x01#8] 0x01#8 with cfg := small } : State).lines.opb.length ≤ m) ∧
    (∀ m, State.reset.cfg.sendMax = some m → State.reset.lines.opb.length ≤ m) := by
  constructor
  · rintro m ⟨⟩
    decide
  · rintro m ⟨⟩

/-- The frame of 95_test_vectors.md S1 behind a byte of garbage, then the first byte of another: an `Errored` report, a `Valid`
one and a window that is not empty. -/
theorem test_hyps_RtuAccounting : ∃ (ops : List Instr) (s u : State) (rs : List Report), s.Inv ∧
    (∀ i ∈ ops, (∃ b, i = .rtuRx b) ∨ i = .rtuTick) ∧ runOps ops s = some (u, rs) ∧
    rs = [{ kind := .errored, bytes := [0x11#8] },
      { kind := .valid, bytes := [0x04#8, 0x01#8, 0x00#8, 0x0A#8, 0x00#8, 0x0D#8] }] ∧
    winBytes u.rtu.win = [0x22#8] := by
  refine ⟨([0x04#8, 0x01#8, 0x00#8, 0x0A#8, 0x00#8, 0x0D#8, 0xDD#8, 0x98#8, 0x22#8].map Instr.rtuRx) ++ [.rtuTick], busy, _, _,
    test_busy_inv, ?_, rfl, by decide, by decide⟩
  intro i hi
  rcases List.mem_append.mp hi with h | h
  · obtain ⟨b, -, rfl⟩ := List.mem_map.mp h
    exact .inl ⟨b, rfl⟩
  · exact .inr (List.mem_singleton.mp h)

/-- A frame of `WIN_CEILING + 1` bytes; its first four bytes are the one earlier candidate. -/
theorem test_hyps_RtuRoundTrip_receive : ∃ (s : State) (p : List Byte), s.rtu.win = [] ∧ s.lines.baud ≠ 0#32 ∧
    s.cfg.minMatchLen ≤ (p ++ trailer p).length ∧ (p ++ trailer p).length = s.cfg.winCeiling + 1 ∧
    (∀ i e, e < (p ++ trailer p).length → i + s.cfg.minMatchLen ≤ e → crc16 (((p ++ trailer p).take e).drop i) ≠ 0x0000#16) := by
  refine ⟨{ State.reset with cfg := small }, [0x11#8, 0x22#8, 0x33#8], by decide, by decide, by decide, by decide, ?_⟩
  intro i e he hi
  have h1 : e < 5 := he
  have h2 : i + 4 ≤ e := hi
  obtain rfl : e = 4 := by omega
  obtain rfl : i = 0 := by omega
  decide

theorem test_hyps_RtuRoundTrip_strip : 2 ≤ [0xFF#8, 0xFF#8].length ∧ crc16 [0xFF#8, 0xFF#8] = 0x0000#16 := by decide

/-- S6: bit 0 of the fourth byte is flipped. -/
theorem test_hyps_DamagedFrameNeverYieldsOriginalPayload : State.reset.cfg.legal = true ∧ State.reset.rtu.win = [] ∧
    State.reset.lines.baud ≠ 0#32 ∧
    [0x04#8, 0x01#8, 0x00#8, 0x0B#8, 0x00#8, 0x0D#8, 0xDD#8, 0x98#8].length =
      ([0x04#8, 0x01#8, 0x00#8, 0x0A#8, 0x00#8, 0x0D#8] ++ trailer [0x04#8, 0x01#8, 0x00#8, 0x0A#8, 0x00#8, 0x0D#8]).length ∧
    [0x04#8, 0x01#8, 0x00#8, 0x0B#8, 0x00#8, 0x0D#8, 0xDD#8, 0x98#8] ≠
      [0x04#8, 0x01#8, 0x00#8, 0x0A#8, 0x00#8, 0x0D#8] ++ trailer [0x04#8, 0x01#8, 0x00#8, 0x0A#8, 0x00#8, 0x0D#8] := by decide

theorem test_hyps_AscFirstOfPair : (0x0D#8 : Byte) ≠ 0x3A#8 ∧ State.reset.asc.pend = none := by decide

/-- Digits at the ends of the three ranges; a buffer that the byte does not fill, and one that it does. -/
theorem test_hyps_AscDataByte :
    HexDigit 0x30#8 0 ∧ HexDigit 0x39#8 9 ∧ HexDigit 0x41#8 10 ∧ HexDigit 0x46#8 15 ∧ HexDigit 0x61#8 10 ∧ HexDigit 0x66#8 15 ∧
    busy.asc.pend = some 0x30#8 ∧ busy.cfg.ascCap ≠ some (busy.asc.acc.length + 1) ∧
    ({ busy with cfg := small } : State).cfg.ascCap = some (({ busy with cfg := small } : State).asc.acc.length + 1) := by
  refine ⟨?_, ?_, ?_, ?_, ?_, ?_, by decide, by decide, by decide⟩ <;> simp [HexDigit]

theorem test_hyps_AscTerminator :
    ((withAsc [] 0x00#8 (some 0x0D#8)).asc.pend = some 0x0D#8 ∧ (withAsc [] 0x00#8 (some 0x0D#8)).asc.acc = []) ∧
    ((withAsc [0x00#8] 0x00#8 (some 0x0D#8)).asc.acc = [] ++ [0x00#8] ∧ (withAsc [0x00#8] 0x00#8 (some 0x0D#8)).asc.lrc = 0x00#8) ∧
    ((withAsc [0x01#8] 0x01#8 (some 0x0D#8)).asc.acc = [] ++ [0x01#8] ∧
      (withAsc [0x01#8] 0x01#8 (some 0x0D#8)).asc.lrc ≠ 0x00#8) := by decide

/-- A9 and A17: the pairs `0` CR and `F` CR; and the pair CR `0`, whose first character is not hex. -/
theorem test_hyps_AscBadPair :
    busy.asc.pend = some 0x30#8 ∧ (0x0D#8 : Byte) ≠ 0x3A#8 ∧ ¬((0x30#8 : Byte) = 0x0D#8 ∧ (0x0D#8 : Byte) = 0x0A#8) ∧
    (∀ l, ¬HexDigit 0x0D#8 l) ∧ (∀ h, ¬HexDigit 0x2F#8 h) ∧ (∀ h, ¬HexDigit 0x47#8 h) := by
  refine ⟨by decide, by decide, by decide, ?_, ?_, ?_⟩ <;> simp [HexDigit]

/-- One digit of each range, and a pair of them. -/
theorem test_hyps_HexCharacterCodes : HexDigit 0x39#8 9 ∧ HexDigit 0x41#8 10 ∧ HexDigit 0x66#8 15 := by
  refine ⟨?_, ?_, ?_⟩ <;> simp [HexDigit]

/-- A capacity one above the payload and its check byte; and no capacity. -/
theorem test_hyps_AscFrameVerdict :
    (∀ m, ({ State.reset with cfg := small } : State).cfg.ascCap = some m → ([] : List Byte).length + 1 < m) ∧
    (∀ m, State.reset.cfg.ascCap = some m → [0x80#8, 0x80#8].length + 1 < m) := by
  constructor
  · rintro m ⟨⟩
    decide
  · rintro m ⟨⟩

theorem test_hyps_AscRoundTrip : ∃ (s : State) (p out : List Byte), s.asc.acc = [] ∧ s.asc.pend = none ∧
    (∀ m, s.cfg.ascCap = some m → p.length + 1 < m) ∧
    ∃ r t, exec .ascSend r = .next t ∧ r.lines.opb = p ∧ t.result = .bytes out := by
  refine ⟨State.reset, [0x80#8, 0x80#8], _, rfl, rfl, ?_, withOpb [0x80#8, 0x80#8] 0x01#8, _, rfl, rfl, rfl⟩
  rintro m ⟨⟩

theorem test_hyps_SendBoundRefused : ({ withOpb [0x01#8, 0x02#8] 0x01#8 with cfg := small } : State).cfg.sendMax = some 1 ∧
    1 < ({ withOpb [0x01#8, 0x02#8] 0x01#8 with cfg := small } : State).lines.opb.length := by decide

theorem test_hyps_FixedCodecs :
    (withOpb [0xFF#8, 0xFF#8, 0x00#8, 0x00#8] 0x01#8).lines.opb = [0xFF#8, 0xFF#8, 0x00#8, 0x00#8] ∧
    (withOpb [0xFF#8, 0xFF#8, 0x00#8] 0x01#8).lines.opb.length ≠ 4 := by decide

/-- No byte, a count of 0 that holds, a count that does not. -/
theorem test_hyps_BoolsCodec :
    State.reset.lines.opb = [] ∧ (withOpb [0x00#8] 0x01#8).lines.opb = 0x00#8 :: [] ∧ ([] : List Byte).length = (0x00#8).toNat ∧
    (withOpb [0x02#8, 0x80#8] 0x01#8).lines.opb = 0x02#8 :: [0x80#8] ∧ [0x80#8].length ≠ (0x02#8).toNat := by decide

/-- The three clauses past the length: an odd count, a selected width that fails with the narrower ones passing, and all widths. -/
theorem test_hyps_RegsCodecTests :
    ([0x00#8, 0x0A#8, 0x01#8].length = (0x03#8).toNat ∧ (0x03#8).toNat % 2 = 1) ∧
    ([0x00#8, 0x01#8, 0x00#8, 0x02#8, 0x00#8, 0x03#8].length = (0x06#8).toNat ∧ (0x06#8).toNat % 2 = 0 ∧
      (0x05#8).getLsbD Fmt.u32.bit = true ∧ (0x06#8).toNat % Fmt.u32.width ≠ 0 ∧
      ∀ g : Fmt, g.bit < Fmt.u32.bit → (0x05#8).getLsbD g.bit = true → (0x06#8).toNat % g.width = 0) ∧
    (([] : List Byte).length = (0x00#8).toNat ∧ (0x00#8).toNat % 2 = 0 ∧
      ∀ f : Fmt, (0xFF#8).getLsbD f.bit = true → (0x00#8).toNat % f.width = 0) := by
  refine ⟨by decide, ⟨by decide, by decide, by decide, by decide, ?_⟩, by decide, by decide, ?_⟩
  · intro g
    cases g <;> decide
  · intro f
    cases f <;> decide

theorem test_hyps_RegisterReadings :
    Fmt.f64.width * (0 + 1) ≤ [0x40#8, 0x24#8, 0x00#8, 0x00#8, 0x00#8, 0x00#8, 0x00#8, 0x00#8].length := by decide

theorem test_hyps_WideReadingsConcatenate :
    4 * (1 + 1) ≤ [0x40#8, 0x24#8, 0x00#8, 0x00#8, 0x00#8, 0x00#8, 0x00#8, 0x00#8].length ∧
    8 * (0 + 1) ≤ [0x40#8, 0x24#8, 0x00#8, 0x00#8, 0x00#8, 0x00#8, 0x00#8, 0x00#8].length := by decide

/-- The clauses of the value: false, the two trues, and their neighbours. -/
theorem test_hyps_CoilCodec :
    (withOpb [0x00#8, 0xAC#8, 0xFF#8] 0x01#8).lines.opb.length ≠ 4 ∧
    (withOpb [0x00#8, 0xAC#8, 0xFF#8, 0x00#8] 0x01#8).lines.opb = [0x00#8, 0xAC#8, 0xFF#8, 0x00#8] ∧
    (0x00#8).toNat * 256 + (0x00#8).toNat = 0x0000 ∧ (0xFF#8).toNat * 256 + (0x00#8).toNat = 0xFF00 ∧
    (0x00#8).toNat * 256 + (0xFF#8).toNat = 0x00FF ∧
    ((0x00#8).toNat * 256 + (0x01#8).toNat ≠ 0x0000 ∧ (0x00#8).toNat * 256 + (0x01#8).toNat ≠ 0xFF00 ∧
      (0x00#8).toNat * 256 + (0x01#8).toNat ≠ 0x00FF) := by decide

theorem test_hyps_CompositeCodecs :
    (withOpb [0x00#8, 0x13#8, 0x00#8, 0x0A#8] 0x01#8).lines.opb.length ≤ 4 ∧
    (withOpb [0x00#8, 0x13#8, 0x00#8, 0x0A#8, 0x00#8] 0x01#8).lines.opb = 0x00#8 :: 0x13#8 :: 0x00#8 :: 0x0A#8 :: [0x00#8] ∧
    [0x00#8] ≠ [] := by decide

theorem test_hyps_RegistryContents : registry 0x83#8 = some entry83 := by decide

theorem test_hyps_UnknownFunctionCodes :
    (0x00#8).toNat % 128 ∉ [0x01, 0x02, 0x03, 0x04, 0x05, 0x06, 0x07, 0x08, 0x0F, 0x10, 0x11] ∧
    (0xFF#8).toNat % 128 ∉ [0x01, 0x02, 0x03, 0x04, 0x05, 0x06, 0x07, 0x08, 0x0F, 0x10, 0x11] := by decide

theorem test_hyps_FrameStates : (decodeFrame .errored [0x11#8, 0x07#8] 0x01#8).body.isSome = true ∧
    (decodeFrame .errored [0x11#8] 0x01#8).body = none := by decide

theorem test_hyps_DecFrameEffect :
    (ReportKind.ofCode 0#2 = some .valid ∧ ReportKind.ofCode 1#2 = some .errored ∧ ReportKind.ofCode 2#2 = some .sent) ∧
    (withOpb [0x11#8] 0x01#8).lines.opb.length < 2 ∧
    (withOpb [0x11#8, 0x07#8] 0x01#8).lines.opb = 0x11#8 :: 0x07#8 :: [] := by decide

theorem test_hyps_StreamReportsDecoded : ∃ (i : Instr) (s t : State) (d : Delivery), exec i s = .next t ∧
    t.result = .reports [d] :=
  ⟨.ascRx 0x3A#8, withAsc [0x04#8] 0x04#8 none, _, _, rfl, rfl⟩

theorem test_hyps_WrittenOnlyBy : ∃ (i : Instr) (s t : State), exec i s = .next t ∧ t.rtu ≠ s.rtu :=
  ⟨.rtuTick, busy, _, rfl, by decide⟩

/-- Two states that differ in every unit, with the same lines and parameters; and the three initialising operations. -/
theorem test_hyps_PureOperationsKeepState :
    (∃ (i : Instr) (s s' t : State), isPure i = true ∧ s'.lines = s.lines ∧ s'.cfg = s.cfg ∧ s'.rtu ≠ s.rtu ∧
      exec i s = .next t) ∧
    (∃ t, exec .crcInit busy = .next t) ∧ (∃ t, exec .lrcInit busy = .next t) ∧ ∃ t, exec .sysReset busy = .next t :=
  ⟨⟨.rtuSend, State.reset, busy, _, rfl, rfl, rfl, by decide, rfl⟩, ⟨_, rfl⟩, ⟨_, rfl⟩, _, rfl⟩

/-- 10_state.md R53 and 92_eei_decisions.md D16 differ on an empty buffer with a held character (log 26), and agree once a
byte is decoded. -/
theorem test_idle_forms :
    ((withAsc [] 0x00#8 (some 0x30#8)).ascIdle, (withAsc [] 0x00#8 (some 0x30#8)).ascBufferEmpty) = (false, true) ∧
    ((withAsc [0x04#8] 0x04#8 none).ascIdle, (withAsc [0x04#8] 0x04#8 none).ascBufferEmpty) = (false, false) ∧
    (State.reset.ascIdle, State.reset.ascBufferEmpty) = (true, true) := by decide

theorem test_hyps_ExecutableCompletes :
    Executable (.rtuRx 0x11#8) State.reset ∧ Executable (.decFrame 2#2) State.reset ∧ Executable .fc91 State.reset ∧
    Executable .ascSend ({ withOpb [0x01#8] 0x01#8 with cfg := small }) ∧ ¬Executable (.decFrame 3#2) State.reset := by
  refine ⟨?_, ?_, trivial, ?_, ?_⟩
  · exact fun h => absurd h (by decide)
  · exact fun h => absurd h (by decide)
  · rintro m ⟨⟩
    decide
  · exact fun h => h rfl

theorem test_hyps_StepKeepsInvariant : ∃ s t : State, s.Inv ∧ step s = .next t ∧ t ≠ s := by
  refine ⟨{ busy with pending := [{ word := .cmd 0x0822#13, lines := busy.lines }] }, _, ?_, rfl, by decide⟩
  exact ⟨test_busy_inv.legal, test_busy_inv.lanes, test_busy_inv.bounded, test_busy_inv.unmatched, test_busy_inv.armed,
    test_busy_inv.count, test_busy_inv.total, test_busy_inv.held, test_busy_inv.room⟩

end Sys2Proof.Tests
end

section
/-! SUPPORT. What every operation that completes does to the state, said once; and the statements of the family 10_state.md. -/

namespace Sys2Proof.Machine

/-! One operation. -/

/-- Everything an operation that completes can do: eight operations write the unit state that is theirs, every other one
leaves a result and nothing else (10_state.md R30, 20_memory.md R86). -/
inductive Effect (s : State) : Instr → State → Prop
  /-- SYS.RESET writes all units (R297). -/
  | sysReset : Effect s .sysReset ((((s.setCk Ck.reset).setRtu Rtu.reset).setAsc Asc.reset).setResult .nothing)
  /-- CRC.INIT loads the seed (R140). -/
  | crcInit : Effect s .crcInit ((s.setCk { s.ck with crc := crcSeed }).setResult .nothing)
  /-- CRC.UPD feeds the accumulator (R141). -/
  | crcUpd (b : Byte) : Effect s (.crcUpd b)
      ((s.setCk { s.ck with crc := crc16Step s.ck.crc b }).setResult (.crc (crc16Step s.ck.crc b)))
  /-- LRC.INIT loads the seed (R144). -/
  | lrcInit : Effect s .lrcInit ((s.setCk { s.ck with lrc := lrcSeed }).setResult .nothing)
  /-- LRC.UPD feeds the accumulator (R145). -/
  | lrcUpd (b : Byte) : Effect s (.lrcUpd b)
      ((s.setCk { s.ck with lrc := lrcStep s.ck.lrc b }).setResult (.lrc (lrcStep s.ck.lrc b)))
  /-- RTU.RX gives U3 the byte, where `baud` is positive (R161, R45). -/
  | rtuRx (b : Byte) (hbaud : s.lines.baud ≠ 0#32) : Effect s (.rtuRx b)
      ((s.setRtu (rtuReceive s.cfg s.lines.baud s.rtu.win b).1).setResult
        (.reports ((rtuReceive s.cfg s.lines.baud s.rtu.win b).2.map (Report.deliver s.lines.fmtSel))))
  /-- RTU.TICK lets a tick elapse in U3 (R170). -/
  | rtuTick : Effect s .rtuTick
      ((s.setRtu (rtuElapse s.rtu).1).setResult
        (.reports ((rtuElapse s.rtu).2.map (Report.deliver s.lines.fmtSel))))
  /-- ASC.RX gives U4 the character (R191). -/
  | ascRx (c : Byte) : Effect s (.ascRx c)
      ((s.setAsc (ascReceive s.cfg.ascCap s.asc c).1).setResult
        (.reports ((ascReceive s.cfg.ascCap s.asc c).2.map (Report.deliver s.lines.fmtSel))))
  /-- A pure operation leaves its result (R86). -/
  | ofPure {i : Instr} (r : OpResult) (hpure : isPure i = true) : Effect s i (s.setResult r)

/-- With `baud = 0` RTU.RX is refused (10_state.md R45). -/
theorem execRtuRx_baudZero {b : Byte} {s : State} (h : s.lines.baud = 0#32) : execRtuRx b s = .refused .baudZero :=
  if_pos h

/-- An operation that completes under a condition and is refused otherwise. -/
theorem ite_complete_eq_next {p : Prop} [Decidable p] {s t : State} {r : OpResult} {why : Refusal}
    (h : (if p then s.complete r else .refused why) = .next t) : p ∧ t = s.setResult r := by
  split at h
  case isTrue hp => exact ⟨hp, (State.next_eq_next h).symm⟩
  case isFalse => cases h

/-- RTU.SEND completes with a payload that fits only, and returns its frame (41_rtu_sync.md R173). -/
theorem execRtuSend_eq_next {s t : State} (h : execRtuSend s = .next t) :
    payloadFits s.cfg s.lines.opb = true ∧ t = s.setResult (.bytes (rtuFrame s.lines.opb)) :=
  ite_complete_eq_next h

/-- ASC.SEND completes with a payload that fits only, and returns its frame (42_ascii_seg.md R201). -/
theorem execAscSend_eq_next {s t : State} (h : execAscSend s = .next t) :
    payloadFits s.cfg s.lines.opb = true ∧ t = s.setResult (.bytes (ascFrame s.lines.opb)) :=
  ite_complete_eq_next h

/-- DEC.FRAME completes with the tag of a report kind only, and returns the decoded frame (45_frame_decoder.md R290). -/
theorem execDecFrame_eq_next {tag : BitVec 2} {s t : State} (h : execDecFrame tag s = .next t) :
    ∃ kind, ReportKind.ofCode tag = some kind ∧
      t = s.setResult (.frame (decodeFrame kind s.lines.opb s.lines.fmtSel)) := by
  unfold execDecFrame at h
  split at h
  next kind hkind => exact ⟨kind, hkind, (State.next_eq_next h).symm⟩
  next => cases h

/-- A pure operation that completes leaves its result and changes nothing else (20_memory.md R86). -/
theorem exec_pure_next {i : Instr} {s t : State} (hpure : isPure i = true) (h : exec i s = .next t) :
    t = s.setResult t.result := by
  cases i with
  | sysReset | crcInit | crcUpd _ | lrcInit | lrcUpd _ | rtuRx _ | rtuTick | ascRx _ => cases hpure
  | cmdReserved op b => cases h
  | rtuSend =>
    obtain ⟨-, rfl⟩ := execRtuSend_eq_next h
    rfl
  | ascSend =>
    obtain ⟨-, rfl⟩ := execAscSend_eq_next h
    rfl
  | decFrame tag =>
    obtain ⟨kind, -, rfl⟩ := execDecFrame_eq_next h
    rfl
  | cselNone | decAq | decBools | decRegs | decAb | decAr | decAqb | decAqr
  | fc01 | fc02 | fc03 | fc04 | fc05 | fc06 | fc07 | fc08 | fc0F | fc10 | fc11
  | fc81 | fc82 | fc83 | fc84 | fc85 | fc86 | fc87 | fc88 | fc8F | fc90 | fc91 | fcUnknown _ =>
    obtain rfl := State.next_eq_next h
    rfl

/-- Every operation that completes has its effect. -/
theorem exec_effect {i : Instr} {s t : State} (h : exec i s = .next t) : Effect s i t := by
  by_cases hpure : isPure i = true
  · rw [exec_pure_next hpure h]
    exact .ofPure t.result hpure
  cases i with
  | sysReset => exact State.next_eq_next h ▸ .sysReset
  | crcInit => exact State.next_eq_next h ▸ .crcInit
  | crcUpd b => exact State.next_eq_next h ▸ .crcUpd b
  | lrcInit => exact State.next_eq_next h ▸ .lrcInit
  | lrcUpd b => exact State.next_eq_next h ▸ .lrcUpd b
  | rtuRx b =>
    by_cases hbaud : s.lines.baud = 0#32
    · cases (execRtuRx_baudZero hbaud).symm.trans h
    · exact State.next_eq_next ((execRtuRx_eq hbaud).symm.trans h) ▸ .rtuRx b hbaud
  | rtuTick => exact State.next_eq_next h ▸ .rtuTick
  | ascRx c => exact State.next_eq_next h ▸ .ascRx c
  | _ => exact absurd rfl hpure

/-! The frame of an operation (10_state.md R30). -/

/-- No operation writes the parameters, the driven lines or the transactions to come (log 2, log 4, log 7). -/
theorem Effect.surroundings {i : Instr} {s t : State} (h : Effect s i t) :
    t.cfg = s.cfg ∧ t.lines = s.lines ∧ t.pending = s.pending := by
  cases h <;> exact ⟨rfl, rfl, rfl⟩

/-- The operations that write `CK.crc`. -/
theorem Effect.crc_eq_or {i : Instr} {s t : State} (h : Effect s i t) :
    t.ck.crc = s.ck.crc ∨ i = .sysReset ∨ i = .crcInit ∨ ∃ b, i = .crcUpd b := by
  cases h with
  | sysReset => exact .inr (.inl rfl)
  | crcInit => exact .inr (.inr (.inl rfl))
  | crcUpd b => exact .inr (.inr (.inr ⟨b, rfl⟩))
  | lrcInit | lrcUpd _ | rtuRx _ _ | rtuTick | ascRx _ | ofPure _ _ => exact .inl rfl

/-- The operations that write `CK.lrc`. -/
theorem Effect.lrc_eq_or {i : Instr} {s t : State} (h : Effect s i t) :
    t.ck.lrc = s.ck.lrc ∨ i = .sysReset ∨ i = .lrcInit ∨ ∃ b, i = .lrcUpd b := by
  cases h with
  | sysReset => exact .inr (.inl rfl)
  | lrcInit => exact .inr (.inr (.inl rfl))
  | lrcUpd b => exact .inr (.inr (.inr ⟨b, rfl⟩))
  | crcInit | crcUpd _ | rtuRx _ _ | rtuTick | ascRx _ | ofPure _ _ => exact .inl rfl

/-- The operations that write U3. -/
theorem Effect.rtu_eq_or {i : Instr} {s t : State} (h : Effect s i t) :
    t.rtu = s.rtu ∨ i = .sysReset ∨ i = .rtuTick ∨ ∃ b, i = .rtuRx b := by
  cases h with
  | sysReset => exact .inr (.inl rfl)
  | rtuTick => exact .inr (.inr (.inl rfl))
  | rtuRx b _ => exact .inr (.inr (.inr ⟨b, rfl⟩))
  | crcInit | crcUpd _ | lrcInit | lrcUpd _ | ascRx _ | ofPure _ _ => exact .inl rfl

/-- The operations that write U4. -/
theorem Effect.asc_eq_or {i : Instr} {s t : State} (h : Effect s i t) :
    t.asc = s.asc ∨ i = .sysReset ∨ ∃ c, i = .ascRx c := by
  cases h with
  | sysReset => exact .inr (.inl rfl)
  | ascRx c => exact .inr (.inr ⟨c, rfl⟩)
  | crcInit | crcUpd _ | lrcInit | lrcUpd _ | rtuRx _ _ | rtuTick | ofPure _ _ => exact .inl rfl

/-! The invariant. -/

/-- An operation keeps the invariant: each unit operation keeps what holds of its unit, and no operation writes the
parameters. -/
theorem Effect.inv {i : Instr} {s t : State} (h : Effect s i t) (hs : s.Inv) : t.Inv := by
  rw [inv_iff] at hs ⊢
  obtain ⟨hlegal, hrtu, hasc⟩ := hs
  cases h with
  | sysReset => exact ⟨hlegal, rtuInv_empty _, ascInv_empty hlegal⟩
  | rtuRx b hbaud => exact ⟨hlegal, hrtu.receive b hlegal hbaud, hasc⟩
  | rtuTick => exact ⟨hlegal, hrtu.elapse, hasc⟩
  | ascRx c => exact ⟨hlegal, hrtu, hasc.receive c hlegal⟩
  | crcInit | crcUpd _ | lrcInit | lrcUpd _ | ofPure _ _ => exact ⟨hlegal, hrtu, hasc⟩

/-- The invariant does not speak of what the environment presents. -/
theorem State.Inv.present {s : State} (h : s.Inv) (l : Lines) (rest : List Transaction) : (s.present l rest).Inv :=
  (inv_iff _).2 ((inv_iff s).1 h)

/-- A step runs the next transaction, or changes nothing where there is none (10_state.md R33). -/
theorem step_eq_next {s t : State} (h : step s = .next t) :
    (s.pending = [] ∧ t = s) ∨
    ∃ tr rest, s.pending = tr :: rest ∧ exec (decode tr.word) (s.present tr.lines rest) = .next t := by
  unfold step at h
  split at h
  next hp => exact .inl ⟨hp, (State.next_eq_next h).symm⟩
  next tr rest hp => exact .inr ⟨tr, rest, hp, h⟩

/-! The obligations. -/

/-- Settles O59: a step that runs an operation keeps the invariant because the operation's effect does. -/
theorem stepKeepsInvariant : Obligations.StepKeepsInvariant := by
  intro s t hs h
  rcases step_eq_next h with ⟨-, rfl⟩ | ⟨tr, rest, -, hexec⟩
  · exact hs
  · exact (exec_effect hexec).inv (hs.present tr.lines rest)

/-- Settles O55, from the frame of the operation's effect, field by field. -/
theorem writtenOnlyBy : Obligations.WrittenOnlyBy := by
  intro i s t h
  have he := exec_effect h
  obtain ⟨hcfg, hlines, hpending⟩ := he.surroundings
  exact ⟨hcfg, hlines, hpending, he.crc_eq_or.resolve_left, he.lrc_eq_or.resolve_left, he.rtu_eq_or.resolve_left,
    he.asc_eq_or.resolve_left⟩

/-- Settles O18, by the refusal of RTU.RX with `baud = 0`. -/
theorem rtuRxZeroBaudRefused : Obligations.RtuRxZeroBaudRefused :=
  fun _ _ hbaud => execRtuRx_baudZero hbaud

/-- Settles O54: the fields and the outputs at reset by evaluation, and SYS.RESET from any state. -/
theorem resetState : Obligations.ResetState := by
  refine ⟨rfl, rfl, rfl, rfl, rfl, rfl, ?so0, ?so1, ?so2, rfl, ?sysReset⟩
  case so0 => decide
  case so1 => decide
  case so2 => decide
  case sysReset => exact fun s => ⟨_, rfl, rfl, rfl, rfl⟩

/-- Settles O58: the default parameters are legal and both stream units are empty. -/
theorem resetInvariant : Obligations.ResetInvariant :=
  (inv_iff _).2 ⟨rfl, rtuInv_empty _, ascInv_empty rfl⟩

end Sys2Proof.Machine
end

section
/-! SUPPORT. What a pure operation depends on, how two adjacent elements of a reading join to one of twice the width, and
which operation a step runs; and the statements of the family 20_memory.md. -/

namespace Sys2Proof.Machine

/-! Pure operations (20_memory.md R86). -/

/-- RTU.SEND with a payload that fits returns its frame (41_rtu_sync.md R173). -/
theorem execRtuSend_of_fits {s : State} (h : payloadFits s.cfg s.lines.opb = true) :
    execRtuSend s = .next (s.setResult (.bytes (rtuFrame s.lines.opb))) :=
  if_pos h

/-- ASC.SEND with a payload that fits returns its frame (42_ascii_seg.md R201). -/
theorem execAscSend_of_fits {s : State} (h : payloadFits s.cfg s.lines.opb = true) :
    execAscSend s = .next (s.setResult (.bytes (ascFrame s.lines.opb))) :=
  if_pos h

/-- DEC.FRAME with the tag of a report kind returns the decoded frame (45_frame_decoder.md R290). -/
theorem execDecFrame_of_kind {tag : BitVec 2} {kind : ReportKind} (h : ReportKind.ofCode tag = some kind) (s : State) :
    execDecFrame tag s = .next (s.setResult (.frame (decodeFrame kind s.lines.opb s.lines.fmtSel))) := by
  simp [execDecFrame, h]

/-- A pure operation reads the driven lines and the parameters only: where these are the same it leaves the same result,
whatever else the state holds (20_memory.md R86, 10_state.md R51, R52). -/
theorem exec_pure_congr {i : Instr} {s s' t : State} (hpure : isPure i = true) (hlines : s'.lines = s.lines)
    (hcfg : s'.cfg = s.cfg) (h : exec i s = .next t) : exec i s' = .next (s'.setResult t.result) := by
  obtain ⟨cfg, ck, rtu, asc, lines, pending, result⟩ := s'
  obtain rfl : lines = s.lines := hlines
  obtain rfl : cfg = s.cfg := hcfg
  cases i with
  | sysReset | crcInit | crcUpd _ | lrcInit | lrcUpd _ | rtuRx _ | rtuTick | ascRx _ => cases hpure
  | cmdReserved op b => cases h
  | rtuSend =>
    obtain ⟨hfits, rfl⟩ := execRtuSend_eq_next h
    exact execRtuSend_of_fits hfits
  | ascSend =>
    obtain ⟨hfits, rfl⟩ := execAscSend_eq_next h
    exact execAscSend_of_fits hfits
  | decFrame tag =>
    obtain ⟨kind, hkind, rfl⟩ := execDecFrame_eq_next h
    exact execDecFrame_of_kind hkind _
  | cselNone | decAq | decBools | decRegs | decAb | decAr | decAqb | decAqr
  | fc01 | fc02 | fc03 | fc04 | fc05 | fc06 | fc07 | fc08 | fc0F | fc10 | fc11
  | fc81 | fc82 | fc83 | fc84 | fc85 | fc86 | fc87 | fc88 | fc8F | fc90 | fc91 | fcUnknown _ =>
    obtain rfl := State.next_eq_next h
    rfl

/-- An initialising operation writes fixed values, so it leaves unchanged the state that it has left (20_memory.md R86). -/
theorem exec_init_idempotent {i : Instr} {s t : State} (hinit : i = .crcInit ∨ i = .lrcInit ∨ i = .sysReset)
    (h : exec i s = .next t) : exec i t = .next t := by
  rcases hinit with rfl | rfl | rfl
  all_goals
    obtain rfl := State.next_eq_next h
    rfl

/-! Register readings (30_encoding.md R114, 20_memory.md R81). -/

/-- Adjacent slices join. -/
theorem slice_append_slice {α : Type} {a b c : Nat} (hab : a ≤ b) (hbc : b ≤ c) (l : List α) :
    slice a b l ++ slice b c l = slice a c l := by
  have hleft : slice a b l = (slice a c l).take (b - a) := by
    rw [slice, slice, List.take_drop, List.take_take, Nat.add_sub_of_le hab, Nat.min_eq_left hbc]
  have hright : slice b c l = (slice a c l).drop (b - a) := by
    rw [slice, slice, List.drop_drop, Nat.add_sub_of_le hab]
  rw [hleft, hright, List.take_append_drop]

/-- A raw element of twice the width is two adjacent ones, the first the more significant. -/
theorem rawElement_two_mul {w j : Nat} {r : List Byte} (h : 2 * w * (j + 1) ≤ r.length) :
    rawElement (2 * w) r j = rawElement w r (2 * j) * 256 ^ w + rawElement w r (2 * j + 1) := by
  have hstart : 2 * w * j = w * (2 * j) := by ring
  have hmid : w * (2 * j) + w = w * (2 * j + 1) := by ring
  have hend : 2 * w * (j + 1) = w * (2 * j + 1) + w := by ring
  have hlength : (slice (w * (2 * j + 1)) (w * (2 * j + 1) + w) r).length = w := by
    rw [slice_length, Nat.min_eq_left (hend ▸ h), Nat.add_sub_cancel_left]
  calc rawElement (2 * w) r j
      = bigEndian (slice (w * (2 * j)) (w * (2 * j + 1) + w) r) := by
        rw [rawElement, ← Nat.mul_add_one, hend, hstart]
    _ = bigEndian (slice (w * (2 * j)) (w * (2 * j) + w) r ++ slice (w * (2 * j + 1)) (w * (2 * j + 1) + w) r) := by
      rw [hmid, slice_append_slice (Nat.mul_le_mul_left w (Nat.le_succ _)) (Nat.le_add_right _ _)]
    _ = rawElement w r (2 * j) * 256 ^ w + rawElement w r (2 * j + 1) := by
      rw [bigEndian_append, hlength, rawElement, rawElement]

theorem Fmt.width_pos (f : Fmt) : 0 < f.width := by
  cases f <;> decide

/-- A reading has every element whose bytes are there (44_field_codecs.md R266). -/
theorem readAs_getElem?_of_le {f : Fmt} {r : List Byte} {j : Nat} (h : f.width * (j + 1) ≤ r.length) :
    (readAs f r).elems[j]? = some (f.read (rawElement f.width r j)) :=
  readAs_getElem? f r j ((Nat.le_div_iff_mul_le f.width_pos).2 (Nat.mul_comm _ _ ▸ h))

/-- The element of an unsigned reading is the two elements of the unsigned reading of half the width on the same bytes, the
first the more significant. -/
theorem readAs_twice_width {f g : Fmt} {r : List Byte} {j : Nat} (hwidth : g.width = 2 * f.width)
    (hf : ∀ v, f.read v = .unsigned v) (hg : ∀ v, g.read v = .unsigned v) (h : g.width * (j + 1) ≤ r.length) :
    ∃ x y, (readAs f r).elems[2 * j]? = some (.unsigned x) ∧ (readAs f r).elems[2 * j + 1]? = some (.unsigned y) ∧
      (readAs g r).elems[j]? = some (.unsigned (x * 256 ^ f.width + y)) := by
  have hbytes : 2 * f.width * (j + 1) ≤ r.length := hwidth ▸ h
  have hsecond : f.width * (2 * j + 1 + 1) ≤ r.length := by
    rwa [show f.width * (2 * j + 1 + 1) = 2 * f.width * (j + 1) by ring]
  have hfirst : f.width * (2 * j + 1) ≤ r.length :=
    (Nat.mul_le_mul_left f.width (Nat.le_succ _)).trans hsecond
  refine ⟨rawElement f.width r (2 * j), rawElement f.width r (2 * j + 1), ?_, ?_, ?_⟩
  · rw [readAs_getElem?_of_le hfirst, hf]
  · rw [readAs_getElem?_of_le hsecond, hf]
  · rw [readAs_getElem?_of_le h, hg, hwidth, rawElement_two_mul hbytes]

/-! One step (20_memory.md R89, 30_encoding.md R121). -/

theorem step_of_pending_cons {s : State} {tr : Transaction} {rest : List Transaction} (h : s.pending = tr :: rest) :
    step s = exec (decode tr.word) (s.present tr.lines rest) := by
  simp only [step, h]

theorem step_of_pending_nil {s : State} (h : s.pending = []) : step s = .next s := by
  simp only [step, h]

/-! The obligations. -/

/-- Settles O41: U32 has twice the width of U16, and U64 twice that of U32. -/
theorem wideReadingsConcatenate : Obligations.WideReadingsConcatenate :=
  fun _ _ => ⟨readAs_twice_width (f := .u16) (g := .u32) rfl (fun _ => rfl) (fun _ => rfl),
    readAs_twice_width (f := .u32) (g := .u64) rfl (fun _ => rfl) (fun _ => rfl)⟩

/-- Settles O56: a pure operation leaves its result only, which depends on the lines and the parameters; an initialising one
writes fixed values. -/
theorem pureOperationsKeepState : Obligations.PureOperationsKeepState :=
  ⟨fun _ _ _ _ hpure hlines hcfg h => ⟨exec_pure_next hpure h, exec_pure_congr hpure hlines hcfg h⟩,
    fun _ _ _ => exec_init_idempotent⟩

/-- Settles O5, by the two cases of a step: presenting the transaction drives its lines and leaves the rest. -/
theorem stepRunsDecodedOperation : Obligations.StepRunsDecodedOperation :=
  ⟨fun _ _ _ _ => step_of_pending_cons, fun _ => step_of_pending_nil⟩

end Sys2Proof.Machine
end

section
/-! SUPPORT. What each command word decodes to and that encoding is inverted by decoding; the hex characters as numbers;
the readings of a register field as sums; which reports an operation returns; and the statements of the family
30_encoding.md. -/

namespace Sys2Proof

/-! Command words, by `op` (30_encoding.md R120): an operation without an operand ignores the low byte. -/

@[simp] theorem decode_cmd_sysReset (b : Byte) : decode (.cmd (0x00#5 ++ b)) = .sysReset := by simp [decode, decodeCmd]

@[simp] theorem decode_cmd_crcInit (b : Byte) : decode (.cmd (0x01#5 ++ b)) = .crcInit := by simp [decode, decodeCmd]

@[simp] theorem decode_cmd_crcUpd (b : Byte) : decode (.cmd (0x02#5 ++ b)) = .crcUpd b := by simp [decode, decodeCmd]

@[simp] theorem decode_cmd_lrcInit (b : Byte) : decode (.cmd (0x03#5 ++ b)) = .lrcInit := by simp [decode, decodeCmd]

@[simp] theorem decode_cmd_lrcUpd (b : Byte) : decode (.cmd (0x04#5 ++ b)) = .lrcUpd b := by simp [decode, decodeCmd]

@[simp] theorem decode_cmd_rtuRx (b : Byte) : decode (.cmd (0x08#5 ++ b)) = .rtuRx b := by simp [decode, decodeCmd]

@[simp] theorem decode_cmd_rtuTick (b : Byte) : decode (.cmd (0x09#5 ++ b)) = .rtuTick := by simp [decode, decodeCmd]

@[simp] theorem decode_cmd_rtuSend (b : Byte) : decode (.cmd (0x0A#5 ++ b)) = .rtuSend := by simp [decode, decodeCmd]

@[simp] theorem decode_cmd_ascRx (b : Byte) : decode (.cmd (0x10#5 ++ b)) = .ascRx b := by simp [decode, decodeCmd]

@[simp] theorem decode_cmd_ascSend (b : Byte) : decode (.cmd (0x11#5 ++ b)) = .ascSend := by simp [decode, decodeCmd]

@[simp] theorem decode_cmd_decFrame (b : Byte) : decode (.cmd (0x18#5 ++ b)) = .decFrame (byteTag b) := by
  simp [decode, decodeCmd]

/-- The six ignored bits of DEC.FRAME's operand do not reach its tag (R120). -/
theorem byteTag_append (x : BitVec 6) (tag : BitVec 2) : byteTag (x ++ tag) = tag :=
  BitVec.extractLsb'_append_eq_right

/-- A command word decodes to the default row exactly when its `op` is unassigned (R122). -/
theorem decode_cmd_eq_cmdReserved_iff (op : BitVec 5) (b : Byte) :
    decode (.cmd (op ++ b)) = .cmdReserved op b ↔ op ∉ assignedOps := by
  refine ⟨fun hdecode hop => ?_, decodeCmd_of_unassigned b⟩
  simp only [assignedOps, List.mem_cons, List.not_mem_nil, or_false] at hop
  rcases hop with rfl | rfl | rfl | rfl | rfl | rfl | rfl | rfl | rfl | rfl | rfl
  all_goals simp at hdecode

/-- The unassigned `op` numbers, as the ranges of R122. -/
theorem not_mem_assignedOps_iff : ∀ op : BitVec 5, op ∉ assignedOps ↔
    (0x05 ≤ op.toNat ∧ op.toNat ≤ 0x07) ∨ (0x0B ≤ op.toNat ∧ op.toNat ≤ 0x0F) ∨ (0x12 ≤ op.toNat ∧ op.toNat ≤ 0x17) ∨
      (0x19 ≤ op.toNat ∧ op.toNat ≤ 0x1F) := by
  decide

/-- A function code without a registry row decodes to the default row (R126). -/
theorem decodeFc_of_unpopulated : ∀ fc : Byte, fc ∉ populatedCodes → decodeFc fc = .fcUnknown fc := by
  decide

theorem wellFormed_cmdReserved_iff (op : BitVec 5) (b : Byte) :
    (Instr.cmdReserved op b).wellFormed = true ↔ op ∉ assignedOps := by
  simp [Instr.wellFormed]

theorem wellFormed_fcUnknown_iff (fc : Byte) : (Instr.fcUnknown fc).wellFormed = true ↔ fc ∉ populatedCodes := by
  simp [Instr.wellFormed]

/-- Decoding inverts encoding. Only the two default rows need well-formedness: a tag kind that is refused still has its
word (R122). -/
theorem decode_encode {i : Instr} (hreserved : ∀ op b, i = .cmdReserved op b → op ∉ assignedOps)
    (hunknown : ∀ fc, i = .fcUnknown fc → fc ∉ populatedCodes) : decode (encode i) = i := by
  cases i with
  | crcUpd b => exact decode_cmd_crcUpd b
  | lrcUpd b => exact decode_cmd_lrcUpd b
  | rtuRx b => exact decode_cmd_rtuRx b
  | ascRx c => exact decode_cmd_ascRx c
  | decFrame tag => exact (decode_cmd_decFrame (0#6 ++ tag)).trans (by rw [byteTag_append])
  | cmdReserved op b => exact decodeCmd_of_unassigned b (hreserved op b rfl)
  | fcUnknown fc => exact decodeFc_of_unpopulated fc (hunknown fc rfl)
  | sysReset | crcInit | lrcInit | rtuTick | rtuSend | ascSend
  | cselNone | decAq | decBools | decRegs | decAb | decAr | decAqb | decAqr
  | fc01 | fc02 | fc03 | fc04 | fc05 | fc06 | fc07 | fc08 | fc0F | fc10 | fc11
  | fc81 | fc82 | fc83 | fc84 | fc85 | fc86 | fc87 | fc88 | fc8F | fc90 | fc91 => rfl

end Sys2Proof

namespace Sys2Proof.Machine

/-! Hex characters (30_encoding.md R115). -/

/-- A 4-bit value of a number below 16 is that number. -/
theorem ofNat_four_eq_iff {n : Nat} (hn : n < 16) (v : BitVec 4) : BitVec.ofNat 4 n = v ↔ v.toNat = n := by
  rw [← BitVec.toNat_inj, BitVec.toNat_ofNat, Nat.mod_eq_of_lt hn, eq_comm]

/-- The hex characters and their values are those that R115 lists. -/
theorem hexVal_eq_some_iff (c : Byte) (v : BitVec 4) : hexVal c = some v ↔ HexDigit c v.toNat := by
  unfold hexVal HexDigit
  split_ifs with hdigit hupper hlower
  case neg => exact iff_of_false nofun (by omega)
  all_goals
    rw [Option.some_inj, ofNat_four_eq_iff (by omega)]
    omega

/-- The value of a hex character is a nibble. -/
theorem HexDigit.exists_nibble {c : Byte} {n : Nat} (h : HexDigit c n) :
    ∃ v : BitVec 4, v.toNat = n ∧ hexVal c = some v := by
  have hn : n < 16 := by
    unfold HexDigit at h
    omega
  have hv : (BitVec.ofNat 4 n).toNat = n := Nat.mod_eq_of_lt hn
  exact ⟨BitVec.ofNat 4 n, hv, (hexVal_eq_some_iff _ _).2 (hv.symm ▸ h)⟩

/-- The byte of two nibbles, the first the high one (20_memory.md R79). -/
theorem append_nibbles_toNat (h l : BitVec 4) : (h ++ l).toNat = 16 * h.toNat + l.toNat := by
  rw [BitVec.toNat_append, ← Nat.shiftLeft_add_eq_or_of_lt l.isLt, Nat.shiftLeft_eq, Nat.mul_comm]

/-- Two hex characters are the byte of their values. -/
theorem hexPair_of_digits {p c : Byte} {h l : Nat} (hp : HexDigit p h) (hc : HexDigit c l) :
    ∃ v : Byte, v.toNat = 16 * h + l ∧ hexPair p c = some v := by
  obtain ⟨x, rfl, hx⟩ := hp.exists_nibble
  obtain ⟨y, rfl, hy⟩ := hc.exists_nibble
  exact ⟨x ++ y, append_nibbles_toNat x y, (hexPair_eq_some_iff _ _ _).2 ⟨x, y, hx, hy, rfl⟩⟩

/-- The output character of a nibble is a hex character of its value. -/
theorem hexDigit_hexChar (v : BitVec 4) : HexDigit (hexChar v) v.toNat :=
  (hexVal_eq_some_iff _ _).1 (hexVal_hexChar v)

/-- The output is upper case: no character is above `F`. -/
theorem hexChar_le : ∀ v : BitVec 4, (hexChar v).toNat ≤ 0x46 := by
  decide

theorem highNibble_toNat (b : Byte) : (b.extractLsb' 4 4).toNat = b.toNat / 16 := by
  have := b.isLt
  rw [BitVec.extractLsb'_toNat, Nat.shiftRight_eq_div_pow]
  omega

theorem lowNibble_toNat (b : Byte) : (b.extractLsb' 0 4).toNat = b.toNat % 16 := by
  rw [BitVec.extractLsb'_toNat, Nat.shiftRight_zero]

/-! Register readings (30_encoding.md R114). -/

/-- The big-endian number of a byte sequence as a sum over its bytes. -/
theorem bigEndian_eq_sum (bs : List Byte) :
    bigEndian bs = ∑ t ∈ Finset.range bs.length, (bs.getD t 0x00#8).toNat * 256 ^ (bs.length - 1 - t) := by
  induction bs with
  | nil => rfl
  | cons b bs ih =>
    have hhead : bigEndian [b] = b.toNat := by simp [bigEndian]
    rw [← List.singleton_append, bigEndian_append, hhead, ih, List.singleton_append, List.length_cons,
      Finset.sum_range_succ', Nat.add_comm]
    refine congrArg₂ _ (Finset.sum_congr rfl fun t _ => ?_) rfl
    rw [List.getD_cons_succ, Nat.add_sub_cancel, Nat.sub_sub, Nat.add_comm 1 t]

theorem getD_slice {α : Type} {a w t : Nat} (l : List α) (x : α) (ht : t < w) :
    (slice a (a + w) l).getD t x = l.getD (a + t) x := by
  rw [slice, List.getD_eq_getElem?_getD, List.getElem?_drop, List.getElem?_take_of_lt (by omega),
    List.getD_eq_getElem?_getD]

/-- A raw element whose bytes are there, as the sum of R114. -/
theorem rawElement_eq_sum {w j : Nat} {r : List Byte} (h : w * (j + 1) ≤ r.length) :
    rawElement w r j = ∑ t ∈ Finset.range w, (r.getD (w * j + t) 0x00#8).toNat * 256 ^ (w - 1 - t) := by
  have hlength : (slice (w * j) (w * j + w) r).length = w := by
    rw [slice_length, Nat.min_eq_left (Nat.mul_succ w j ▸ h), Nat.add_sub_cancel_left]
  rw [rawElement, bigEndian_eq_sum, hlength]
  exact Finset.sum_congr rfl fun t ht => by rw [getD_slice r _ (Finset.mem_range.1 ht)]

theorem rawElement_lt (w : Nat) (r : List Byte) (j : Nat) : rawElement w r j < 256 ^ w := by
  refine (bigEndian_lt _).trans_le (Nat.pow_le_pow_right (by decide) ?_)
  rw [slice_length]
  omega

theorem Fmt.read_of_unsigned {f : Fmt} (h : f = .u16 ∨ f = .u32 ∨ f = .u64) (raw : Nat) : f.read raw = .unsigned raw := by
  rcases h with rfl | rfl | rfl
  all_goals rfl

/-- A signed reading is the two's complement number of its width (44_field_codecs.md R267, log 16). -/
theorem Fmt.read_of_signed {f : Fmt} (h : f = .i16 ∨ f = .i32 ∨ f = .i64) (raw : Nat) :
    f.read raw = .signed (twosComplement (8 * f.width) raw) := by
  rcases h with rfl | rfl | rfl
  all_goals rfl

/-! Reports (30_encoding.md R118, 45_frame_decoder.md R295). -/

/-- No report of RTU.RX is of kind `Sent`. -/
theorem rtuReceive_kind_ne_sent (cfg : Config) (baud : BitVec 32) (win : List Tracked) (b : Byte) :
    ∀ r ∈ (rtuReceive cfg baud win b).2, r.kind ≠ .sent := by
  rcases rtuReceive_cases cfg baud win b with ⟨i, -, he⟩ | ⟨-, -, he⟩ | ⟨-, -, he⟩ <;> rw [he]
  · by_cases hi : 0 < i <;> simp [matchReports, hi]
  · simp
  · simp

/-- No report of RTU.TICK is of kind `Sent`. -/
theorem rtuElapse_kind_ne_sent (u : Rtu) : ∀ r ∈ (rtuElapse u).2, r.kind ≠ .sent := by
  rcases rtuElapse_cases u with ⟨-, he⟩ | ⟨c, -, -, he⟩ | ⟨-, he⟩ <;> rw [he]
  · simp
  · simp
  · by_cases hw : u.win = [] <;> simp [rtuFlush_eq, hw]

theorem ascFlush_kind_ne_sent (acc : List Byte) : ∀ r ∈ ascFlush acc, r.kind ≠ .sent := by
  by_cases h : acc = [] <;> simp [ascFlush_eq, h]

theorem ascTerminate_kind_ne_sent (u : Asc) : ∀ r ∈ ascTerminate u, r.kind ≠ .sent := by
  rcases List.eq_nil_or_concat u.acc with h | ⟨payload, check, h⟩
  · simp [ascTerminate_nil h]
  · by_cases hl : u.lrc = 0x00#8 <;> simp [ascTerminate_snoc (List.concat_eq_append ▸ h), hl]

theorem ascAppend_kind_ne_sent (cap : Option Nat) (u : Asc) (v : Byte) : ∀ r ∈ (ascAppend cap u v).2, r.kind ≠ .sent := by
  by_cases hcap : cap = some (u.acc.length + 1)
  · simpa [ascAppend, hcap] using ascFlush_kind_ne_sent (u.acc ++ [v])
  · simp [ascAppend, hcap]

/-- No report of ASC.RX is of kind `Sent`. -/
theorem ascReceive_kind_ne_sent (cap : Option Nat) (u : Asc) (c : Byte) :
    ∀ r ∈ (ascReceive cap u c).2, r.kind ≠ .sent := by
  rcases ascReceive_cases cap u c with
    ⟨-, he⟩ | ⟨-, -, he⟩ | ⟨-, -, he⟩ | ⟨p, v, -, -, -, he⟩ | ⟨p, -, -, -, -, he⟩ <;> rw [he]
  · exact ascFlush_kind_ne_sent _
  · simp
  · exact ascTerminate_kind_ne_sent u
  · exact ascAppend_kind_ne_sent cap u v
  · exact ascFlush_kind_ne_sent _

/-- A pure operation returns no report list. -/
theorem exec_pure_result_ne_reports {i : Instr} {s t : State} {ds : List Delivery} (hpure : isPure i = true)
    (h : exec i s = .next t) : t.result ≠ .reports ds := by
  cases i with
  | sysReset | crcInit | crcUpd _ | lrcInit | lrcUpd _ | rtuRx _ | rtuTick | ascRx _ => cases hpure
  | cmdReserved op b => cases h
  | rtuSend =>
    obtain ⟨-, rfl⟩ := execRtuSend_eq_next h
    exact nofun
  | ascSend =>
    obtain ⟨-, rfl⟩ := execAscSend_eq_next h
    exact nofun
  | decFrame tag =>
    obtain ⟨kind, -, rfl⟩ := execDecFrame_eq_next h
    exact nofun
  | cselNone | decAq | decBools | decRegs | decAb | decAr | decAqb | decAqr
  | fc01 | fc02 | fc03 | fc04 | fc05 | fc06 | fc07 | fc08 | fc0F | fc10 | fc11
  | fc81 | fc82 | fc83 | fc84 | fc85 | fc86 | fc87 | fc88 | fc8F | fc90 | fc91 | fcUnknown _ =>
    obtain rfl := State.next_eq_next h
    exact nofun

/-- A report list that an operation returns is a list of reports delivered through the frame decoder, none of kind
`Sent`. -/
theorem exec_reports {i : Instr} {s t : State} {ds : List Delivery} (h : exec i s = .next t) (hds : t.result = .reports ds) :
    ∃ rs : List Report, ds = rs.map (Report.deliver s.lines.fmtSel) ∧ ∀ r ∈ rs, r.kind ≠ .sent := by
  cases exec_effect h with
  | sysReset | crcInit | crcUpd _ | lrcInit | lrcUpd _ => cases hds
  | rtuRx b _ =>
    cases hds
    exact ⟨_, rfl, rtuReceive_kind_ne_sent s.cfg s.lines.baud s.rtu.win b⟩
  | rtuTick =>
    cases hds
    exact ⟨_, rfl, rtuElapse_kind_ne_sent s.rtu⟩
  | ascRx c =>
    cases hds
    exact ⟨_, rfl, ascReceive_kind_ne_sent s.cfg.ascCap s.asc c⟩
  | ofPure r hpure => exact absurd hds (exec_pure_result_ne_reports hpure h)

/-! Codec selects (30_encoding.md R124). -/

/-- The select of a codec runs that codec on the data field. -/
theorem exec_decode_cselCode (c : Codec) (s : State) :
    exec (decode (.csel (cselCode (some c)))) s =
      .next (s.setResult (.codec (some (c.run s.lines.fmtSel s.lines.opb)))) := by
  cases c with
  | aq | bools | regs | ab | ar | aqb | aqr => rfl

/-! The obligations. -/

/-- Settles O2: the hypothesis keeps the operand of a default row outside the assigned encodings. -/
theorem decodeEncodeRoundTrip : Obligations.DecodeEncodeRoundTrip := by
  intro i hi
  refine decode_encode ?reserved ?unknown
  case reserved =>
    rintro op b rfl
    exact (wellFormed_cmdReserved_iff op b).1 (hi.resolve_right nofun)
  case unknown =>
    rintro fc rfl
    exact (wellFormed_fcUnknown_iff fc).1 (hi.resolve_right nofun)

/-- Settles O32: a character's value is a nibble, a pair joins two nibbles, and the output characters are those of the
byte's own nibbles. -/
theorem hexCharacterCodes : Obligations.HexCharacterCodes := by
  refine ⟨hexVal_eq_some_iff, fun _ _ _ _ => hexPair_of_digits, fun v => ?output⟩
  case output =>
    exact ⟨_, _, rfl, highNibble_toNat v ▸ hexDigit_hexChar _, lowNibble_toNat v ▸ hexDigit_hexChar _, hexChar_le _,
      hexChar_le _, hexPair_hexChars v⟩

/-- Settles O40: element `j` reads the raw element, which is the sum of R114 and fits the width. -/
theorem registerReadings : Obligations.RegisterReadings := by
  intro f r j
  refine ⟨readAs_length f r, fun h => ⟨_, readAs_getElem?_of_le h, ?_⟩⟩
  rw [← rawElement_eq_sum h]
  have hlt := rawElement_lt f.width r j
  refine ⟨fun hf => Fmt.read_of_unsigned hf _, fun hf => Fmt.read_of_signed hf _, ?f32, ?f64⟩
  case f32 =>
    rintro rfl
    exact ⟨BitVec.ofNat 32 _, Nat.mod_eq_of_lt hlt, rfl⟩
  case f64 =>
    rintro rfl
    exact ⟨BitVec.ofNat 64 _, Nat.mod_eq_of_lt hlt, rfl⟩

/-- Settles O52: a returned report list is delivered report by report. -/
theorem streamReportsDecoded : Obligations.StreamReportsDecoded := by
  intro i s t ds h hds d hd
  obtain ⟨rs, rfl, hkind⟩ := exec_reports h hds
  obtain ⟨r, hr, rfl⟩ := List.mem_map.1 hd
  exact ⟨rfl, hkind r hr⟩

/-- Settles O1, by evaluating the decoder on each of the nineteen words. -/
theorem specWordsDecode : Obligations.SpecWordsDecode := by
  unfold Obligations.SpecWordsDecode
  decide

/-- Settles O3, row by row. -/
theorem opcodeFieldsDecode : Obligations.OpcodeFieldsDecode := fun b =>
  ⟨decode_cmd_sysReset b, decode_cmd_crcInit b, decode_cmd_crcUpd b, decode_cmd_lrcInit b, decode_cmd_lrcUpd b,
    decode_cmd_rtuRx b, decode_cmd_rtuTick b, decode_cmd_rtuSend b, decode_cmd_ascRx b, decode_cmd_ascSend b,
    decode_cmd_decFrame b⟩

/-- Settles O4: the ranges of R122 are the unassigned numbers; the refusals are the meanings themselves. -/
theorem reservedCommandsRefused : Obligations.ReservedCommandsRefused :=
  ⟨fun op b => (not_mem_assignedOps_iff op).symm.trans (decode_cmd_eq_cmdReserved_iff op b).symm,
    fun _ _ _ => rfl, fun _ => rfl⟩

/-- Settles O44, select by select. -/
theorem codecSelects : Obligations.CodecSelects :=
  ⟨fun _ => rfl, exec_decode_cselCode⟩

end Sys2Proof.Machine
end

section
/-! SUPPORT. The CRC step as an iterate, as a linear map and on the accumulator's own low byte, and the negated sum; and the
statements of the family 40_checksum.md. -/

namespace Sys2Proof.Machine

/-! The CRC step (40_checksum.md R141). -/

/-- The bit loop is the bit step, iterated. -/
theorem crcBits_eq_iterate (k : Nat) (c : Half) : crcBits k c = crcBit^[k] c := by
  induction k generalizing c with
  | zero => rfl
  | succ k ih => rw [crcBits_succ, ih, Function.iterate_succ_apply]

/-- CRC.UPD stores the step's value and returns it. -/
theorem exec_crcUpd (b : Byte) (s : State) : exec (.crcUpd b) s =
    .next ((s.setCk { s.ck with crc := crc16Step s.ck.crc b }).setResult (.crc (crc16Step s.ck.crc b))) := rfl

/-- The step is linear over exclusive or (R149). -/
theorem crc16Step_xor (x y : Half) (a b : Byte) : crc16Step (x ^^^ y) (a ^^^ b) = crc16Step x a ^^^ crc16Step y b := by
  have hinput : x ^^^ y ^^^ (a ^^^ b).setWidth 16 = (x ^^^ a.setWidth 16) ^^^ (y ^^^ b.setWidth 16) := by
    rw [BitVec.setWidth_xor]
    ac_rfl
  rw [crc16Step, hinput, crcBits_xor]
  rfl

/-- One byte fed to two accumulators: their difference takes a zero byte. -/
theorem crc16Step_xor_same (x y : Half) (b : Byte) : crc16Step x b ^^^ crc16Step y b = crc16Step (x ^^^ y) 0x00#8 := by
  rw [← crc16Step_xor, BitVec.xor_self]

/-- A byte equal to the whole accumulator cancels it. -/
@[simp] theorem crc16Step_setWidth_self (b : Byte) : crc16Step (b.setWidth 16) b = 0x0000#16 := by
  rw [crc16Step, BitVec.xor_self]
  decide

/-- Exclusive or with the low byte clears it. -/
theorem getLsbD_xor_loByte_of_lt (c : Half) {j : Nat} (hj : j < 8) :
    (c ^^^ (loByte c).setWidth 16).getLsbD j = false := by
  have hbit : (loByte c).getLsbD j = c.getLsbD j := by
    rw [loByte, BitVec.getLsbD_extractLsb', Nat.zero_add, decide_eq_true hj, Bool.true_and]
  rw [BitVec.getLsbD_xor, BitVec.getLsbD_setWidth, hbit]
  simp [hj.trans (show 8 < 16 by decide)]

/-- The low byte is shifted out. -/
theorem setWidth_loByte_shift (c : Half) : (loByte c).setWidth 16 >>> 8 = 0x0000#16 := by
  apply BitVec.eq_of_toNat_eq
  simp only [loByte, BitVec.toNat_ushiftRight, BitVec.toNat_setWidth, BitVec.extractLsb'_toNat, BitVec.toNat_ofNat]
  omega

/-- The high byte is what is left. -/
theorem setWidth_hiByte (c : Half) : (hiByte c).setWidth 16 = c >>> 8 := by
  apply BitVec.eq_of_toNat_eq
  simp only [hiByte, BitVec.toNat_ushiftRight, BitVec.toNat_setWidth, BitVec.extractLsb'_toNat]
  omega

/-- Feeding the low byte leaves the high byte: no iteration finds a 1 in bit 0 (R142). -/
theorem crc16Step_loByte (c : Half) : crc16Step c (loByte c) = (hiByte c).setWidth 16 := by
  rw [crc16Step, crcBits_of_low_zero 8 _ fun _ => getLsbD_xor_loByte_of_lt c, BitVec.ushiftRight_xor_distrib,
    setWidth_loByte_shift, BitVec.xor_zero, setWidth_hiByte]

/-- The trailer of a message, low byte first, brings the accumulator to zero (R142). -/
theorem crc16_append_trailer (p : List Byte) : crc16 (p ++ trailer p) = 0x0000#16 := by
  simp [trailer, crc16_append, crc16Step_loByte]

/-- An accumulator that reads zero stays zero under zero bytes (R149). -/
theorem crc16From_zero_replicate (n : Nat) : crc16From 0x0000#16 (List.replicate n 0x00#8) = 0x0000#16 := by
  induction n with
  | zero => rfl
  | succ n ih => exact ih

/-- Two accumulators that take the same bytes: their difference takes as many zero bytes (R149). -/
theorem crc16From_xor_same (x y : Half) (bs : List Byte) :
    crc16From x bs ^^^ crc16From y bs = crc16From (x ^^^ y) (List.replicate bs.length 0x00#8) := by
  induction bs generalizing x y with
  | nil => rfl
  | cons b bs ih =>
    rw [crc16From_cons, crc16From_cons, ih, crc16Step_xor_same, List.length_cons, List.replicate_succ, crc16From_cons]

/-! The LRC (R145, R147). -/

theorem lrcStep_toNat (l b : Byte) : (lrcStep l b).toNat = (l.toNat + b.toNat) % 256 := BitVec.toNat_add l b

theorem lrcZero_iff_toNat (l : Byte) : lrcZero l = true ↔ l.toNat = 0 :=
  (lrcZero_iff l).trans BitVec.toNat_eq

/-- The check byte is the sum, negated modulo 256 (R147). -/
theorem lrcOf_toNat (p : List Byte) : (lrcOf p).toNat = (256 - (p.map BitVec.toNat).sum % 256) % 256 := by
  rw [lrcOf, BitVec.zero_sub, BitVec.toNat_neg, lrcSum_toNat]

/-- A payload followed by its check byte sums to zero (R146). -/
theorem lrcSum_append_lrcOf (p : List Byte) : lrcSum (p ++ [lrcOf p]) = 0x00#8 := by
  rw [lrcSum_snoc, lrcOf, BitVec.zero_sub, BitVec.add_right_neg]

/-! The obligations. -/

/-- Settles O10: the first byte of the trailer leaves the second, which cancels the accumulator. -/
theorem crcResidueIsZero : Obligations.CrcResidueIsZero :=
  ⟨crc16Step_loByte, crc16_append_trailer⟩

/-- Settles O11: linearity of the step, carried over the bytes by induction. -/
theorem crcStepIsLinear : Obligations.CrcStepIsLinear :=
  ⟨crc16Step_xor, crc16From_zero_replicate, crc16From_xor_same⟩

/-- Settles O13: the accumulator is the sum modulo 256, and the check byte its negation. -/
theorem lrcCheckByte : Obligations.LrcCheckByte := by
  intro p l
  refine ⟨?zero, lrcOf_toNat p, lrcSum_append_lrcOf p⟩
  case zero => simp [lrcZero_iff_toNat, lrcSum_toNat]

/-- Settles O6: the meaning of CRC.INIT is the stated update. -/
theorem crcInitEffect : Obligations.CrcInitEffect :=
  ⟨decode_cmd_crcInit, fun _ => ⟨rfl, rfl⟩⟩

/-- Settles O7: the stored accumulator is eight iterates of the bit step; the corner values by evaluation. -/
theorem crcUpdEffect : Obligations.CrcUpdEffect := by
  refine ⟨decode_cmd_crcUpd, fun s b => ⟨?effect, crcZero_iff _⟩, ?corners⟩
  case effect =>
    have hstep : crc16Step s.ck.crc b = crcBit^[8] (s.ck.crc ^^^ b.setWidth 16) := crcBits_eq_iterate 8 _
    rw [exec_crcUpd, hstep]
    rfl
  case corners => decide

/-- Settles O8: the meaning of LRC.INIT is the stated update. -/
theorem lrcInitEffect : Obligations.LrcInitEffect :=
  ⟨decode_cmd_lrcInit, fun _ => ⟨rfl, rfl⟩⟩

/-- Settles O9: the stored accumulator is the step's, whose number is the sum modulo 256. -/
theorem lrcUpdEffect : Obligations.LrcUpdEffect :=
  ⟨decode_cmd_lrcUpd, fun s b => ⟨lrcStep s.ck.lrc b, lrcStep_toNat _ _, rfl, lrcZero_iff_toNat _⟩⟩

end Sys2Proof.Machine
end

section
/-! SUPPORT. Which two bytes close a message, U3's scan in terms of the bytes of the window, what each case of RTU.RX and
RTU.TICK does to the state, and the bytes that the reports of U3 account for; and the statements of the family
41_rtu_sync.md. -/

namespace Sys2Proof.Machine

/-! The two bytes that close a message (40_checksum.md R141, R142). -/

/-- A bit step is zero on zero only: the bit it shifts out is bit 15 of its result. -/
theorem eq_zero_of_crcBit_eq_zero {c : Half} (h : crcBit c = 0x0000#16) : c = 0x0000#16 := by
  have hlow : c.getLsbD 0 = false := by rw [← crcBit_msb, h]; rfl
  have hshift : c >>> 1 = 0x0000#16 := (crcBit_even hlow).symm.trans h
  apply BitVec.eq_of_getLsbD_eq
  rintro (_ | j) _
  · rw [hlow]; rfl
  · rw [Nat.add_comm, ← BitVec.getLsbD_ushiftRight, hshift]; simp

theorem eq_zero_of_crcBits_eq_zero {k : Nat} {c : Half} (h : crcBits k c = 0x0000#16) : c = 0x0000#16 := by
  induction k generalizing c with
  | zero => exact h
  | succ k ih => exact eq_zero_of_crcBit_eq_zero (ih h)

/-- The accumulator reads zero after the byte that is the whole of it, and after no other. -/
theorem crc16Step_eq_zero_iff (c : Half) (b : Byte) : crc16Step c b = 0x0000#16 ↔ c = b.setWidth 16 := by
  refine ⟨fun h => BitVec.xor_eq_zero_iff.1 (eq_zero_of_crcBits_eq_zero h), ?_⟩
  rintro rfl
  exact crc16Step_setWidth_self b

/-- From zero, every byte but the zero byte reaches the high half of the accumulator. -/
theorem eq_zero_of_hiByte_crc16Step_zero : ∀ b : Byte, hiByte (crc16Step 0x0000#16 b) = 0x00#8 → b = 0x00#8 := by
  decide

theorem setWidth_sixteen_injective {x y : Byte} (h : x.setWidth 16 = y.setWidth 16) : x = y := by
  simpa using congrArg (BitVec.setWidth 8) h

theorem hiByte_setWidth (b : Byte) : hiByte (b.setWidth 16) = 0x00#8 := by
  apply BitVec.eq_of_toNat_eq
  have := b.isLt
  simp only [hiByte, BitVec.extractLsb'_toNat, BitVec.toNat_setWidth, BitVec.toNat_ofNat, Nat.shiftRight_eq_div_pow]
  omega

/-- The accumulator fits one byte after its own low byte, and after no other. -/
theorem eq_loByte_of_crc16Step_eq_setWidth {c : Half} {x y : Byte} (h : crc16Step c x = y.setWidth 16) :
    x = loByte c := by
  have hdiff : crc16Step 0x0000#16 (x ^^^ loByte c) = (y ^^^ hiByte c).setWidth 16 := by
    rw [← BitVec.xor_self (x := c), crc16Step_xor, h, crc16Step_loByte, BitVec.setWidth_xor]
  exact BitVec.xor_eq_zero_iff.1 (eq_zero_of_hiByte_crc16Step_zero _ (hdiff ▸ hiByte_setWidth _))

/-- The only two bytes that bring a message to zero are its trailer. -/
theorem crc16_append_pair_eq_zero_iff (p : List Byte) (x y : Byte) :
    crc16 (p ++ [x, y]) = 0x0000#16 ↔ [x, y] = trailer p := by
  refine ⟨fun h => ?_, fun h => h ▸ crc16_append_trailer p⟩
  have hx : crc16Step (crc16 p) x = y.setWidth 16 := by
    rw [← crc16Step_eq_zero_iff, ← h, crc16_append]
    rfl
  obtain rfl := eq_loByte_of_crc16Step_eq_setWidth hx
  rw [trailer, setWidth_sixteen_injective ((crc16Step_loByte _).symm.trans hx)]

/-- A message whose CRC reads zero is what is left without its last two bytes, with its trailer (41_rtu_sync.md R174). -/
theorem take_append_trailer_of_crc16_eq_zero {b : List Byte} (hlen : 2 ≤ b.length) (h : crc16 b = 0x0000#16) :
    b.take (b.length - 2) ++ trailer (b.take (b.length - 2)) = b := by
  obtain ⟨x, y, hxy⟩ : ∃ x y, b.drop (b.length - 2) = [x, y] :=
    List.length_eq_two.1 (by rw [List.length_drop]; omega)
  have hsplit : b.take (b.length - 2) ++ [x, y] = b := hxy ▸ List.take_append_drop _ b
  have hzero : crc16 (b.take (b.length - 2) ++ [x, y]) = 0x0000#16 := hsplit.symm ▸ h
  rw [← (crc16_append_pair_eq_zero_iff _ x y).1 hzero, hsplit]

/-- The wire form of a payload is the payload and its trailer (R173). -/
theorem rtuFrame_eq (p : List Byte) : rtuFrame p = p ++ trailer p := by
  have hhigh : loByte ((hiByte (crc16 p)).setWidth 16) = hiByte (crc16 p) := by
    rw [loByte, ← BitVec.setWidth_eq_extractLsb' (by decide), BitVec.setWidth_setWidth_of_le _ (by decide), BitVec.setWidth_eq]
  simp only [rtuFrame, trailer, crc16Step_loByte, hhigh]

/-! The load value (R162). -/

theorem toNat_pos_of_ne_zero {baud : BitVec 32} (h : baud ≠ 0#32) : 0 < baud.toNat :=
  Nat.pos_of_ne_zero fun h0 => h (BitVec.eq_of_toNat_eq h0)

theorem timerLoad_toNat {baud : BitVec 32} (h : baud ≠ 0#32) :
    (timerLoad baud).toNat = 1 + (50000 + baud.toNat - 1) / baud.toNat := by
  obtain ⟨-, hle⟩ := timerLoad_range baud h
  rw [timerLoad, BitVec.toNat_ofNat]
  exact Nat.mod_eq_of_lt (hle.trans_lt (by decide))

/-- The quotient of the load value is 1 exactly from 50000 baud on. -/
theorem timerLoad_toNat_eq_two_iff {baud : BitVec 32} (h : baud ≠ 0#32) :
    (timerLoad baud).toNat = 2 ↔ 50000 ≤ baud.toNat := by
  have hpos := toNat_pos_of_ne_zero h
  have hquot : (50000 + baud.toNat - 1) / baud.toNat = 1 ↔ baud.toNat ≤ 50000 + baud.toNat - 1 ∧
      50000 + baud.toNat - 1 < 2 * baud.toNat := by
    rw [Nat.div_eq_iff hpos]
    omega
  rw [timerLoad_toNat h]
  omega

/-! The scan, in terms of the window's bytes (R38, R165). -/

/-- An offset whose suffix of the window has a CRC other than zero has no zero lane. -/
theorem LanesHold.findMatch_eq_none {win : List Tracked} {minLen : Nat} (h : LanesHold win)
    (hclear : ∀ k, k + minLen ≤ win.length → crc16 ((winBytes win).drop k) ≠ 0x0000#16) : findMatch minLen win = none :=
  findMatch_of_unmatched fun k t hk ht => by
    rw [h k t ht, winBytes_drop]
    exact hclear k hk

/-- The candidate of a match is a message whose CRC reads zero. -/
theorem LanesHold.crc16_drop_of_findMatch {win : List Tracked} {minLen i : Nat} (h : LanesHold win)
    (hmatch : findMatch minLen win = some i) : crc16 ((winBytes win).drop i) = 0x0000#16 := by
  obtain ⟨-, -, ⟨t, ht, hzero⟩, -⟩ := findMatch_eq_some hmatch
  rw [← winBytes_drop, ← h i t ht, hzero]

/-! RTU.RX on U3, case by case (R166, R167, R168). -/

theorem rtuReceive_of_match {cfg : Config} {win : List Tracked} {b : Byte} {i : Nat} (baud : BitVec 32)
    (h : findMatch cfg.minMatchLen (received win b) = some i) :
    rtuReceive cfg baud win b = ({ win := [], timer := none }, matchReports i (winBytes win ++ [b])) := by
  simp [rtuReceive, pushByte_eq, h]

theorem rtuReceive_of_above {cfg : Config} {win : List Tracked} {b : Byte} (baud : BitVec 32)
    (h : findMatch cfg.minMatchLen (received win b) = none) (hlen : cfg.winCeiling < win.length + 1) :
    rtuReceive cfg baud win b =
      ({ win := (received win b).drop cfg.evictBatch, timer := some (timerLoad baud) },
        [{ kind := .errored, bytes := (winBytes win ++ [b]).take cfg.evictBatch }]) := by
  simp [rtuReceive, pushByte_eq, h, hlen]

theorem rtuReceive_of_within {cfg : Config} {win : List Tracked} {b : Byte} (baud : BitVec 32)
    (h : findMatch cfg.minMatchLen (received win b) = none) (hlen : win.length + 1 ≤ cfg.winCeiling) :
    rtuReceive cfg baud win b = ({ win := received win b, timer := some (timerLoad baud) }, []) := by
  simp only [rtuReceive, pushByte_eq, h, received_length, if_neg (Nat.not_lt.2 hlen)]

/-- The reports of a match, with the candidate as the bytes from the offset on, without the last two. -/
theorem matchReports_eq (i : Nat) (bs : List Byte) : matchReports i bs =
    (if 0 < i then [Report.mk .errored (bs.take i)] else []) ++
      [Report.mk .valid ((bs.drop i).take (bs.length - i - 2))] := by
  rw [matchReports, slice_zero, slice, List.drop_take, Nat.sub_right_comm]

theorem matchReports_zero (bs : List Byte) : matchReports 0 bs = [Report.mk .valid (bs.take (bs.length - 2))] := by
  simp [matchReports_eq]

theorem matchReports_of_pos {i : Nat} (hi : 0 < i) (bs : List Byte) : matchReports i bs =
    [Report.mk .errored (bs.take i), Report.mk .valid ((bs.drop i).take (bs.length - i - 2))] := by
  simp [matchReports_eq, hi]

/-! What the reports account for (R176). -/

/-- The reports of a match account for the whole window. -/
theorem matchReports_wireBytes {i : Nat} {bs : List Byte} (hlen : i + 2 ≤ bs.length)
    (hzero : crc16 (bs.drop i) = 0x0000#16) : (matchReports i bs).flatMap wireBytes = bs := by
  have hgarbage : (if 0 < i then [Report.mk .errored (bs.take i)] else []).flatMap wireBytes = bs.take i := by
    rcases Nat.eq_zero_or_pos i with rfl | hi
    · rfl
    · simp [hi, wireBytes]
  have hcandidate : wireBytes (Report.mk .valid ((bs.drop i).take (bs.length - i - 2))) = bs.drop i := by
    have hstrip := take_append_trailer_of_crc16_eq_zero (b := bs.drop i) (by rw [List.length_drop]; omega) hzero
    rwa [List.length_drop] at hstrip
  rw [matchReports_eq, List.flatMap_append, hgarbage, List.flatMap_singleton, hcandidate, List.take_append_drop]

/-- RTU.RX accounts for the window and the byte. -/
theorem rtuReceive_accounts {cfg : Config} {win : List Tracked} (baud : BitVec 32) (b : Byte) (hmin : 2 ≤ cfg.minMatchLen)
    (hlanes : LanesHold win) :
    (rtuReceive cfg baud win b).2.flatMap wireBytes ++ winBytes (rtuReceive cfg baud win b).1.win =
      winBytes win ++ [b] := by
  rcases rtuReceive_cases cfg baud win b with ⟨i, hmatch, he⟩ | ⟨-, -, he⟩ | ⟨-, -, he⟩ <;> rw [he]
  · obtain ⟨-, hlen, -, -⟩ := findMatch_eq_some hmatch
    have hzero := (hlanes.received b).crc16_drop_of_findMatch hmatch
    rw [winBytes_received] at hzero
    have hfits : i + 2 ≤ win.length + 1 := by
      rw [received_length] at hlen
      omega
    rw [matchReports_wireBytes (by rw [List.length_append, winBytes_length]; exact hfits) hzero, winBytes_nil, List.append_nil]
  · simp [wireBytes, winBytes_drop]
  · simp

/-- RTU.TICK accounts for the window. -/
theorem rtuElapse_accounts (u : Rtu) :
    (rtuElapse u).2.flatMap wireBytes ++ winBytes (rtuElapse u).1.win = winBytes u.win := by
  rcases rtuElapse_cases u with ⟨-, he⟩ | ⟨c, -, -, he⟩ | ⟨-, he⟩ <;> rw [he]
  · rfl
  · rfl
  · by_cases hw : u.win = [] <;> simp [rtuFlush_eq, hw, wireBytes]

/-- One operation on U3: its reports and the window afterwards give back the window and the byte received. -/
theorem exec_accounts {i : Instr} {s t : State} (hs : s.Inv) (hi : (∃ b, i = .rtuRx b) ∨ i = .rtuTick)
    (h : exec i s = .next t) :
    t.reported.flatMap wireBytes ++ winBytes t.rtu.win = winBytes s.rtu.win ++ rtuByte i := by
  rcases hi with ⟨b, rfl⟩ | rfl
  · cases exec_effect h with
    | ofPure _ hpure => cases hpure
    | rtuRx _ _ =>
      obtain ⟨-, -, hmin, -⟩ := (legal_iff _).1 hs.legal
      rw [reported_setResult_reports]
      exact rtuReceive_accounts s.lines.baud b hmin hs.lanes
  · cases exec_effect h with
    | ofPure _ hpure => cases hpure
    | rtuTick =>
      rw [reported_setResult_reports, rtuByte, List.append_nil]
      exact rtuElapse_accounts s.rtu

/-! The operations of U3 on the state, from what they do to the unit. -/

theorem exec_rtuRx_of_receive {s : State} {b : Byte} {u : Rtu} {rs : List Report} (hbaud : s.lines.baud ≠ 0#32)
    (h : rtuReceive s.cfg s.lines.baud s.rtu.win b = (u, rs)) :
    exec (.rtuRx b) s = .next ((s.setRtu u).setResult (.reports (rs.map (Report.deliver s.lines.fmtSel)))) := by
  refine (execRtuRx_eq hbaud).trans ?_
  rw [h]
  rfl

theorem exec_rtuTick_of_elapse {s : State} {u : Rtu} {rs : List Report} (h : rtuElapse s.rtu = (u, rs)) :
    exec .rtuTick s = .next ((s.setRtu u).setResult (.reports (rs.map (Report.deliver s.lines.fmtSel)))) := by
  change execRtuTick s = _
  rw [execRtuTick, h]
  rfl

/-! RTU.TICK on U3, case by case (R170, R171). -/

theorem rtuElapse_of_unarmed {u : Rtu} (h : u.timer = none) : rtuElapse u = (u, []) := by
  simp [rtuElapse, h]

theorem rtuElapse_of_counting {u : Rtu} {c : BitVec 16} (h : u.timer = some c) (hc : 2 ≤ c.toNat) :
    rtuElapse u = ({ u with timer := some (c - 1#16) }, []) := by
  have hne : c - 1#16 ≠ 0#16 := fun h0 => by
    have hzero : c.toNat - 1 = 0 := (sub_one_toNat (by omega)).symm.trans (congrArg BitVec.toNat h0)
    omega
  simp [rtuElapse, h, hne]

theorem rtuElapse_of_last {u : Rtu} (h : u.timer = some 1#16) :
    rtuElapse u = ({ win := [], timer := none }, rtuFlush u.win) := by
  simp [rtuElapse, h]

/-! A payload that does not fit (log 9). -/

theorem payloadFits_eq_false {cfg : Config} {p : List Byte} {m : Nat} (hm : cfg.sendMax = some m) (hlt : m < p.length) :
    payloadFits cfg p = false :=
  Bool.eq_false_iff.2 fun h => absurd ((payloadFits_iff cfg p).1 h m hm) (Nat.not_le.2 hlt)

theorem execRtuSend_of_not_fits {s : State} (h : payloadFits s.cfg s.lines.opb = false) :
    execRtuSend s = .refused .payloadTooLong := by
  simp [execRtuSend, h]

theorem execAscSend_of_not_fits {s : State} (h : payloadFits s.cfg s.lines.opb = false) :
    execAscSend s = .refused .payloadTooLong := by
  simp [execAscSend, h]

/-! Runs of operations on U3. -/

/-- Over a run of RTU.RX and RTU.TICK the reports and the window give back the stream in order. -/
theorem runOps_accounts {ops : List Instr} {s u : State} {rs : List Report} (hs : s.Inv)
    (hops : ∀ i ∈ ops, (∃ b, i = .rtuRx b) ∨ i = .rtuTick) (h : runOps ops s = some (u, rs)) :
    rs.flatMap wireBytes ++ winBytes u.rtu.win = winBytes s.rtu.win ++ ops.flatMap rtuByte := by
  induction ops generalizing s rs with
  | nil =>
    obtain ⟨rfl, rfl⟩ : s = u ∧ [] = rs := by simpa using h
    simp
  | cons i is ih =>
    obtain ⟨hi, his⟩ := List.forall_mem_cons.1 hops
    obtain ⟨t, rs', hexec, hrest, rfl⟩ := runOps_cons_eq_some.1 h
    calc (t.reported ++ rs').flatMap wireBytes ++ winBytes u.rtu.win
        = t.reported.flatMap wireBytes ++ (rs'.flatMap wireBytes ++ winBytes u.rtu.win) := by
          rw [List.flatMap_append, List.append_assoc]
      _ = t.reported.flatMap wireBytes ++ winBytes t.rtu.win ++ is.flatMap rtuByte := by
          rw [ih ((exec_effect hexec).inv hs) his hrest, List.append_assoc]
      _ = winBytes s.rtu.win ++ (i :: is).flatMap rtuByte := by
          rw [exec_accounts hs hi hexec, List.append_assoc, List.flatMap_cons]

/-- After no byte of the sequence do the last `minLen` or more bytes so far have a CRC that reads zero: the scan finds no
match at any of them (R165). -/
def NoMatchInside (minLen : Nat) (bs : List Byte) : Prop :=
  ∀ i e, e ≤ bs.length → i + minLen ≤ e → crc16 ((bs.take e).drop i) ≠ 0x0000#16

/-- The scan finds nothing at the next byte of such a sequence. -/
theorem NoMatchInside.findMatch_eq_none {minLen : Nat} {win : List Tracked} {b : Byte} {bs : List Byte}
    (h : NoMatchInside minLen (winBytes win ++ b :: bs)) (hlanes : LanesHold win) :
    findMatch minLen (received win b) = none := by
  refine (hlanes.received b).findMatch_eq_none fun k hk => ?_
  have htake : (winBytes win ++ b :: bs).take (win.length + 1) = winBytes (received win b) := by
    rw [winBytes_received, ← List.singleton_append, ← List.append_assoc]
    exact List.take_left' (by simp)
  rw [← htake]
  exact h k _ (by simp) (by rwa [received_length] at hk)

/-- Bytes without a match inside that stay within the ceiling are taken into the window without a report (R167). -/
theorem runOps_rtuRx_of_noMatchInside {bs : List Byte} {s : State} (hlanes : LanesHold s.rtu.win)
    (hbaud : s.lines.baud ≠ 0#32) (hlen : s.rtu.win.length + bs.length ≤ s.cfg.winCeiling)
    (hclear : NoMatchInside s.cfg.minMatchLen (winBytes s.rtu.win ++ bs)) :
    ∃ t, runOps (bs.map .rtuRx) s = some (t, []) ∧ LanesHold t.rtu.win ∧
      winBytes t.rtu.win = winBytes s.rtu.win ++ bs ∧ t.cfg = s.cfg ∧ t.lines = s.lines := by
  induction bs generalizing s with
  | nil => exact ⟨s, rfl, hlanes, by simp, rfl, rfl⟩
  | cons b bs ih =>
    rw [List.length_cons] at hlen
    obtain ⟨v, hexec, hnext⟩ := exec_rtuRx_next b hbaud
    rw [rtuReceive_of_within _ (hclear.findMatch_eq_none hlanes) (by omega)] at hnext
    obtain ⟨hrtu, hreported, hvcfg, -, -, hvlines, -⟩ := hnext
    obtain ⟨t, hrun, htlanes, hbytes, hcfg, hlines⟩ := ih (s := v) (by rw [hrtu]; exact hlanes.received b)
      (hvlines ▸ hbaud) (by rw [hrtu, hvcfg, received_length]; omega) (by simpa [hrtu, hvcfg] using hclear)
    refine ⟨t, ?_, htlanes, by simpa [hrtu] using hbytes, hcfg.trans hvcfg, hlines.trans hvlines⟩
    rw [List.map_cons, runOps_cons_next hexec, hrun, hreported]
    rfl

/-- The byte that completes a frame from the window's first byte on reports its payload (R166, R174). -/
theorem exec_rtuRx_of_frame {s : State} {b : Byte} {p : List Byte} (hlanes : LanesHold s.rtu.win)
    (hbaud : s.lines.baud ≠ 0#32) (hframe : winBytes s.rtu.win ++ [b] = p ++ trailer p)
    (hmin : s.cfg.minMatchLen ≤ (p ++ trailer p).length) :
    exec (.rtuRx b) s = .next ((s.setRtu { win := [], timer := none }).setResult
      (.reports ([Report.mk .valid p].map (Report.deliver s.lines.fmtSel)))) := by
  have hbytes : winBytes (received s.rtu.win b) = p ++ trailer p := (winBytes_received _ _).trans hframe
  have hmatch : findMatch s.cfg.minMatchLen (received s.rtu.win b) = some 0 := by
    refine findMatch_of_lowest ?_ ⟨_, List.getElem?_eq_getElem (by simp), ?_⟩ (by simp)
    · rwa [Nat.zero_add, ← winBytes_length, hbytes]
    · rw [hlanes.received b 0 _ (List.getElem?_eq_getElem (by simp)), List.drop_zero, hbytes, crc16_append_trailer]
  have hreports : matchReports 0 (winBytes s.rtu.win ++ [b]) = [Report.mk .valid p] := by
    simp [hframe, matchReports_eq, trailer]
  exact exec_rtuRx_of_receive hbaud (hreports ▸ rtuReceive_of_match s.lines.baud hmatch)

/-- A frame from an empty window, with no match inside before its last byte and at most one byte above the ceiling, is
reported as its payload at its last byte (R174). -/
theorem runOps_rtuRx_frame {s : State} {p init : List Byte} {last : Byte} (hframe : init ++ [last] = p ++ trailer p)
    (hwin : s.rtu.win = []) (hbaud : s.lines.baud ≠ 0#32) (hmin : s.cfg.minMatchLen ≤ (p ++ trailer p).length)
    (hmax : init.length ≤ s.cfg.winCeiling) (hclear : NoMatchInside s.cfg.minMatchLen init) :
    (∃ t, runOps (init.map .rtuRx) s = some (t, [])) ∧
    ∃ u, runOps ((init ++ [last]).map .rtuRx) s = some (u, [Report.mk .valid p]) ∧
      u.rtu = { win := [], timer := none } := by
  obtain ⟨t, hrun, hlanes, hbytes, hcfg, hlines⟩ :=
    runOps_rtuRx_of_noMatchInside (hwin ▸ lanesHold_nil) hbaud (by simpa [hwin] using hmax) (by simpa [hwin] using hclear)
  have hlast := exec_rtuRx_of_frame hlanes (hlines ▸ hbaud) (by rw [hbytes, hwin]; exact hframe) (hcfg ▸ hmin)
  rw [List.map_append]
  exact ⟨⟨t, hrun⟩, _, runOps_append hrun (runOps_cons_next hlast), rfl⟩

/-! The obligations. -/

/-- Settles O14: the load is at most 50001, so that nothing is lost in 16 bits; the sample values by evaluation. -/
theorem timerLoadValue : Obligations.TimerLoadValue := by
  refine ⟨fun baud hbaud => ?load, ?samples⟩
  case load =>
    obtain ⟨hlow, hhigh⟩ := timerLoad_range baud hbaud
    rw [← timerLoad_toNat hbaud] at hlow hhigh
    exact ⟨timerLoad_toNat hbaud, hlow, hhigh, timerLoad_toNat_eq_two_iff hbaud⟩
  case samples => decide

/-- Settles O15: the scan finds the lowest eligible zero lane. -/
theorem rtuRxMatch : Obligations.RtuRxMatch := by
  intro s b i win bytes hbaud hlen hzero hlow
  have hmatch : findMatch s.cfg.minMatchLen win = some i := findMatch_of_lowest (by simpa [win, bytes] using hlen) hzero hlow
  rw [← matchReports_eq]
  exact exec_rtuRx_of_receive hbaud (rtuReceive_of_match s.lines.baud hmatch)

/-- Settles O16: the scan finds nothing, and the two cases of the window's length are those of the model. -/
theorem rtuRxWithoutMatch : Obligations.RtuRxWithoutMatch := by
  intro s b win bytes load hbaud hclear
  have hlen : bytes.length = s.rtu.win.length + 1 := by simp [bytes]
  have hnone : findMatch s.cfg.minMatchLen win = none :=
    findMatch_of_unmatched (by simpa [win, hlen] using hclear)
  rw [hlen]
  exact ⟨fun habove => exec_rtuRx_of_receive hbaud (rtuReceive_of_above s.lines.baud hnone habove),
    fun hwithin => exec_rtuRx_of_receive hbaud (rtuReceive_of_within s.lines.baud hnone hwithin)⟩

/-- Settles O17: the shapes are those of a match at 0, a match further on, an eviction, or the byte staying, with lengths that
follow from where the scan looks and from the window's bound; the unit afterwards keeps its invariant. -/
theorem rtuRxBounds : Obligations.RtuRxBounds := by
  intro s b hs hbaud
  obtain ⟨t, hexec, hnext⟩ := exec_rtuRx_next b hbaud
  have ht := (exec_effect hexec).inv hs
  obtain ⟨-, hbatch, hmin, -⟩ := (legal_iff _).1 hs.legal
  have hbound : s.rtu.win.length ≤ s.cfg.winCeiling := hs.bounded
  refine ⟨t, hexec, ?reports, hnext.cfg ▸ ht.bounded, ht.armed⟩
  rw [hnext.reported]
  rcases rtuReceive_cases s.cfg s.lines.baud s.rtu.win b with ⟨i, hmatch, he⟩ | ⟨-, habove, he⟩ | ⟨-, -, he⟩ <;> rw [he]
  · obtain ⟨-, hlen, -, -⟩ := findMatch_eq_some hmatch
    rw [received_length] at hlen
    rcases Nat.eq_zero_or_pos i with rfl | hi
    · refine .inr (.inl ⟨_, matchReports_zero _, ?_⟩)
      simp only [List.length_take, List.length_append, List.length_singleton, winBytes_length]
      omega
    · refine .inr (.inr (.inl ⟨_, _, matchReports_of_pos hi _, ?_⟩))
      simp only [List.length_take, List.length_drop, List.length_append, List.length_singleton, winBytes_length]
      omega
  · refine .inr (.inr (.inr ⟨_, rfl, ?_⟩))
    simp only [List.length_take, List.length_append, List.length_singleton, winBytes_length]
    omega
  · exact .inl rfl

/-- Settles O19, by the cases of the timer. -/
theorem rtuTickEffect : Obligations.RtuTickEffect := by
  refine ⟨decode_cmd_rtuTick, fun s => ⟨fun hnone => ?unarmed, fun c hc hcount => ?counts, fun hone hwin => ?empty,
    fun hone hwin => ?flush⟩⟩
  case unarmed => exact exec_rtuTick_of_elapse (rtuElapse_of_unarmed hnone)
  case counts =>
    exact ⟨c - 1#16, sub_one_toNat (by omega), exec_rtuTick_of_elapse (rtuElapse_of_counting hc hcount)⟩
  case empty =>
    have h := rtuElapse_of_last hone
    rw [rtuFlush_eq, if_pos hwin] at h
    exact exec_rtuTick_of_elapse h
  case flush =>
    have h := rtuElapse_of_last hone
    rw [rtuFlush_eq, if_neg hwin] at h
    exact exec_rtuTick_of_elapse h

/-- Settles O22: the payload fits, and its wire form ends in its trailer. -/
theorem rtuSendEffect : Obligations.RtuSendEffect := by
  refine ⟨decode_cmd_rtuSend, fun s hfits => ?_⟩
  have hexec := execRtuSend_of_fits ((payloadFits_iff _ _).2 hfits)
  rw [rtuFrame_eq] at hexec
  exact hexec

/-- Settles O23, operation by operation. -/
theorem rtuAccounting : Obligations.RtuAccounting :=
  fun _ _ _ _ => runOps_accounts

/-- Settles O24: no byte but the last meets a match or an eviction; a zero CRC ends in the trailer. -/
theorem rtuRoundTrip : Obligations.RtuRoundTrip := by
  refine ⟨?receive, fun _ => take_append_trailer_of_crc16_eq_zero⟩
  case receive =>
    intro s p b hwin hbaud hmin hmax hclear
    have hframe : p ++ [loByte (crc16 p)] ++ [hiByte (crc16 p)] = b := List.append_assoc _ _ _
    have hlen : b.length = (p ++ [loByte (crc16 p)]).length + 1 := by rw [← hframe, List.length_append, List.length_singleton]
    have hinit : NoMatchInside s.cfg.minMatchLen (p ++ [loByte (crc16 p)]) := fun i e he hi => by
      rw [← List.take_append_of_le_length he, hframe]
      exact hclear i e (by omega) hi
    rw [← hframe, List.dropLast_concat]
    exact runOps_rtuRx_frame hframe hwin hbaud hmin (by omega) hinit

/-- Settles O36, by the refusal of a payload that does not fit. -/
theorem sendBoundRefused : Obligations.SendBoundRefused := by
  intro s m hm hlt
  have hfits := payloadFits_eq_false hm hlt
  exact ⟨execRtuSend_of_not_fits hfits, execAscSend_of_not_fits hfits⟩

end Sys2Proof.Machine
end

section
/-! SUPPORT. What each case of ASC.RX does to U4 and to the state, and runs of ASC.RX as runs of the unit, up to a whole
frame; and the statements of the family 42_ascii_seg.md. -/

namespace Sys2Proof.Machine

/-! ASC.RX on U4, case by case (R192 to R198). -/

theorem ascReceive_colon (cap : Option Nat) (u : Asc) : ascReceive cap u 0x3A#8 = (Asc.reset, ascFlush u.acc) :=
  if_pos rfl

theorem ascReceive_of_first {u : Asc} {c : Byte} (cap : Option Nat) (hc : c ≠ 0x3A#8) (hpend : u.pend = none) :
    ascReceive cap u c = ({ u with pend := some c }, []) := by
  simp [ascReceive, chColon, hc, hpend]

theorem ascReceive_of_terminator {u : Asc} (cap : Option Nat) (hpend : u.pend = some 0x0D#8) :
    ascReceive cap u 0x0A#8 = (Asc.reset, ascTerminate u) := by
  simp [ascReceive, chColon, chCr, chLf, hpend]

/-- A pair that is a byte is taken: its second character is neither the marker nor LF, which are no hex characters. -/
theorem ascReceive_of_hexPair {u : Asc} {p c v : Byte} (cap : Option Nat) (hpend : u.pend = some p)
    (hpair : hexPair p c = some v) : ascReceive cap u c = ascAppend cap u v := by
  obtain ⟨h, l, -, hl, -⟩ := (hexPair_eq_some_iff p c v).1 hpair
  have hcolon : c ≠ 0x3A#8 := by
    rintro rfl
    cases hexVal_colon.symm.trans hl
  have hlf : c ≠ 0x0A#8 := by
    rintro rfl
    cases hexVal_lf.symm.trans hl
  simp [ascReceive, chColon, chLf, hcolon, hlf, hpend, hpair]

theorem ascReceive_of_badPair {u : Asc} {p c : Byte} (cap : Option Nat) (hpend : u.pend = some p) (hc : c ≠ 0x3A#8)
    (hend : ¬(p = 0x0D#8 ∧ c = 0x0A#8)) (hpair : hexPair p c = none) :
    ascReceive cap u c = (Asc.reset, ascFlush u.acc) := by
  simp [ascReceive, chColon, chCr, chLf, hc, hpend, hend, hpair]

theorem ascAppend_of_room {cap : Option Nat} {u : Asc} (v : Byte) (h : cap ≠ some (u.acc.length + 1)) :
    ascAppend cap u v = ({ acc := u.acc ++ [v], lrc := lrcStep u.lrc v, pend := none }, []) := by
  simp [ascAppend, h]

theorem ascAppend_of_full {cap : Option Nat} {u : Asc} (v : Byte) (h : cap = some (u.acc.length + 1)) :
    ascAppend cap u v = (Asc.reset, [{ kind := .errored, bytes := u.acc ++ [v] }]) := by
  simp [ascAppend, h, ascFlush_eq]

/-- A character that is no hex digit has no value. -/
theorem hexVal_eq_none_of_not_hexDigit {c : Byte} (h : ∀ n, ¬HexDigit c n) : hexVal c = none :=
  Option.eq_none_iff_forall_ne_some.2 fun v hv => h v.toNat ((hexVal_eq_some_iff c v).1 hv)

/-! How many reports one operation makes (R199, R200). -/

theorem ascFlush_length_le_one (acc : List Byte) : (ascFlush acc).length ≤ 1 := by
  rw [ascFlush_eq]
  split <;> simp

theorem ascTerminate_length_le_one (u : Asc) : (ascTerminate u).length ≤ 1 := by
  rw [ascTerminate]
  split <;> simp

theorem ascAppend_length_le_one (cap : Option Nat) (u : Asc) (v : Byte) : (ascAppend cap u v).2.length ≤ 1 := by
  by_cases h : cap = some (u.acc.length + 1)
  · rw [ascAppend_of_full v h]
    rfl
  · rw [ascAppend_of_room v h]
    exact Nat.zero_le 1

theorem ascReceive_length_le_one (cap : Option Nat) (u : Asc) (c : Byte) : (ascReceive cap u c).2.length ≤ 1 := by
  rcases ascReceive_cases cap u c with
    ⟨-, he⟩ | ⟨-, -, he⟩ | ⟨-, -, he⟩ | ⟨p, v, -, -, -, he⟩ | ⟨p, -, -, -, -, he⟩ <;> rw [he]
  · exact ascFlush_length_le_one u.acc
  · exact Nat.zero_le 1
  · exact ascTerminate_length_le_one u
  · exact ascAppend_length_le_one cap u v
  · exact ascFlush_length_le_one u.acc

theorem rtuElapse_length_le_one (u : Rtu) : (rtuElapse u).2.length ≤ 1 := by
  rcases rtuElapse_cases u with ⟨-, he⟩ | ⟨c, -, -, he⟩ | ⟨-, he⟩ <;> rw [he]
  · exact Nat.zero_le 1
  · exact Nat.zero_le 1
  · rw [rtuFlush_eq]
    split <;> simp

/-! ASC.RX on the state, from what it does to the unit. -/

theorem exec_ascRx_of_receive {s : State} {c : Byte} {u : Asc} {rs : List Report}
    (h : ascReceive s.cfg.ascCap s.asc c = (u, rs)) :
    exec (.ascRx c) s = .next ((s.setAsc u).setResult (.reports (rs.map (Report.deliver s.lines.fmtSel)))) := by
  change execAscRx c s = _
  rw [execAscRx, h]
  rfl

/-! Runs of ASC.RX. -/

/-- A sequence of characters on U4: the unit afterwards and all reports, in order. -/
def ascRun (cap : Option Nat) : List Byte → Asc → Asc × List Report
  | [], u => (u, [])
  | c :: cs, u =>
    let first := ascReceive cap u c
    let rest := ascRun cap cs first.1
    (rest.1, first.2 ++ rest.2)

theorem ascRun_cons {cap : Option Nat} {c : Byte} {cs : List Byte} {u v w : Asc} {rs rs' : List Report}
    (h : ascReceive cap u c = (v, rs)) (h' : ascRun cap cs v = (w, rs')) : ascRun cap (c :: cs) u = (w, rs ++ rs') := by
  simp [ascRun, h, h']

theorem ascRun_singleton {cap : Option Nat} {c : Byte} {u v : Asc} {rs : List Report}
    (h : ascReceive cap u c = (v, rs)) : ascRun cap [c] u = (v, rs) := by
  simp [ascRun, h]

theorem ascRun_append {cap : Option Nat} {cs ds : List Byte} {u v w : Asc} {rs rs' : List Report}
    (h : ascRun cap cs u = (v, rs)) (h' : ascRun cap ds v = (w, rs')) :
    ascRun cap (cs ++ ds) u = (w, rs ++ rs') := by
  induction cs generalizing u rs with
  | nil =>
    cases h
    exact h'
  | cons c cs ih =>
    cases h
    rw [List.append_assoc]
    exact ascRun_cons rfl (ih rfl)

/-- A run of ASC.RX is the run of the unit, and touches no other unit (R199). -/
theorem runOps_ascRx (cs : List Byte) (s : State) :
    ∃ t, runOps (cs.map .ascRx) s = some (t, (ascRun s.cfg.ascCap cs s.asc).2) ∧
      t.asc = (ascRun s.cfg.ascCap cs s.asc).1 ∧ t.rtu = s.rtu ∧ t.ck = s.ck := by
  induction cs generalizing s with
  | nil => exact ⟨s, rfl, rfl, rfl, rfl⟩
  | cons c cs ih =>
    obtain ⟨v, hexec, hnext⟩ := exec_ascRx_next s c
    obtain ⟨t, hrun, hasc, hrtu, hck⟩ := ih v
    rw [hnext.cfg, hnext.asc] at hrun hasc
    refine ⟨t, ?_, hasc, hrtu.trans hnext.rtu, hck.trans hnext.ck⟩
    rw [List.map_cons, runOps_cons_next hexec, hrun, hnext.reported]
    rfl

/-! A whole frame (R195, R201). -/

/-- Bytes in hex that do not fill the buffer are appended and folded into the running LRC. -/
theorem ascRun_hex {cap : Option Nat} {bs : List Byte} {u : Asc} (hpend : u.pend = none)
    (hroom : ∀ m, cap = some m → u.acc.length + bs.length < m) :
    ascRun cap (bs.flatMap hex2) u = ({ acc := u.acc ++ bs, lrc := bs.foldl lrcStep u.lrc, pend := none }, []) := by
  induction bs generalizing u with
  | nil =>
    obtain ⟨acc, lrc, pend⟩ := u
    obtain rfl : pend = none := hpend
    simp [ascRun]
  | cons b bs ih =>
    simp only [List.length_cons] at hroom
    obtain ⟨hfirst, hsecond⟩ := ascReceive_pair cap u b hpend fun hcap => by
      have := hroom _ hcap
      omega
    have hrest := ih (u := { acc := u.acc ++ [b], lrc := u.lrc + b, pend := none }) rfl fun m hm => by
      have := hroom m hm
      simp only [List.length_append, List.length_singleton]
      omega
    have hrun := ascRun_cons hfirst (ascRun_cons hsecond hrest)
    rwa [List.append_assoc] at hrun

/-- The wire form of a payload and a check byte, but for the final LF. -/
def ascFrameInit (p : List Byte) (l : Byte) : List Byte := 0x3A#8 :: ((p ++ [l]).flatMap hex2 ++ [0x0D#8])

theorem ascFrameInit_append_lf (p : List Byte) (l : Byte) :
    ascFrameInit p l ++ [0x0A#8] = [0x3A#8] ++ p.flatMap hex2 ++ hex2 l ++ [0x0D#8, 0x0A#8] := by
  simp [ascFrameInit]

/-- What ASC.SEND returns is the wire form of the payload and its check byte (R201). -/
theorem ascFrame_eq (p : List Byte) : ascFrame p = ascFrameInit p (lrcOf p) ++ [0x0A#8] :=
  (ascFrameInit_append_lf p (lrcOf p)).symm

theorem ascFrame_length (p : List Byte) : (ascFrame p).length = 2 * p.length + 5 := by
  rw [ascFrame]
  simp only [List.length_append, hex2_flatMap_length, hex2_length, List.length_cons, List.length_nil]
  omega

section
variable {cap : Option Nat} {p : List Byte} (hroom : ∀ m, cap = some m → p.length + 1 < m)
include hroom

/-- Before the LF of a frame U4 holds its bytes and the CR; only what was accumulated before has been reported (R192). -/
theorem ascRun_ascFrameInit (l : Byte) (u : Asc) : ascRun cap (ascFrameInit p l) u =
    ({ acc := p ++ [l], lrc := lrcSum (p ++ [l]), pend := some 0x0D#8 }, ascFlush u.acc) := by
  have hbytes : ascRun cap ((p ++ [l]).flatMap hex2) Asc.reset =
      ({ acc := p ++ [l], lrc := lrcSum (p ++ [l]), pend := none }, []) :=
    ascRun_hex rfl (by simpa [Asc.reset] using hroom)
  have hcr := ascRun_append hbytes (ascRun_singleton (ascReceive_of_first (c := 0x0D#8) cap (by decide) rfl))
  rw [← List.append_nil (ascFlush u.acc)]
  exact ascRun_cons (ascReceive_colon cap u) hcr

/-- The LF of a frame reports its payload, with the kind that the sum of its bytes gives (R195, R146). -/
theorem ascRun_frame (l : Byte) (u : Asc) : ascRun cap (ascFrameInit p l ++ [0x0A#8]) u =
    (Asc.reset,
      ascFlush u.acc ++ [{ kind := if lrcSum (p ++ [l]) = 0x00#8 then .valid else .errored, bytes := p }]) := by
  have hlf := ascReceive_of_terminator (u := { acc := p ++ [l], lrc := lrcSum (p ++ [l]), pend := some 0x0D#8 }) cap rfl
  rw [ascTerminate_snoc rfl] at hlf
  exact ascRun_append (ascRun_ascFrameInit hroom l u) (ascRun_singleton hlf)

end

/-- A payload and a check byte sum to zero in the accumulator exactly when they do modulo 256 (R146). -/
theorem lrcSum_snoc_eq_zero_iff (p : List Byte) (l : Byte) :
    lrcSum (p ++ [l]) = 0x00#8 ↔ ((p.map BitVec.toNat).sum + l.toNat) % 256 = 0 :=
  (lrcZero_iff _).symm.trans (lrcCheckByte p l).1

/-! The obligations. -/

/-- Settles O28, by the two cases of the capacity. -/
theorem ascDataByte : Obligations.AscDataByte := by
  intro s p c h l hpend hp hc
  obtain ⟨v, hv, hpair⟩ := hexPair_of_digits hp hc
  have htaken := ascReceive_of_hexPair s.cfg.ascCap hpend hpair
  refine ⟨v, hv, fun hroom => ⟨lrcStep s.asc.lrc v, lrcStep_toNat _ _, ?room⟩, fun hfull => ?full⟩
  case room => exact exec_ascRx_of_receive (htaken.trans (ascAppend_of_room v hroom))
  case full => exact exec_ascRx_of_receive (htaken.trans (ascAppend_of_full v hfull))

/-- Settles O29: the terminator's reports for an empty buffer and for a buffer with a last byte. -/
theorem ascTerminator : Obligations.AscTerminator := by
  intro s hpend
  have hend := ascReceive_of_terminator s.cfg.ascCap hpend
  refine ⟨fun hempty => ?empty, fun payload check kind hacc hkind => ?report⟩
  case empty => exact exec_ascRx_of_receive (hend.trans (by rw [ascTerminate_nil hempty]))
  case report =>
    have hif : (if s.asc.lrc = 0x00#8 then .valid else .errored) = kind := by
      rcases hkind with ⟨hlrc, rfl⟩ | ⟨hlrc, rfl⟩
      · exact if_pos hlrc
      · exact if_neg hlrc
    rw [ascTerminate_snoc hacc, hif] at hend
    exact exec_ascRx_of_receive hend

/-- Settles O30: one of the characters has no value, so the pair is no byte. -/
theorem ascBadPair : Obligations.AscBadPair := by
  intro s p c hpend hc hend hdigit
  have hpair : hexPair p c = none :=
    (hexPair_eq_none_iff p c).2 (hdigit.imp hexVal_eq_none_of_not_hexDigit hexVal_eq_none_of_not_hexDigit)
  rw [← ascFlush_eq]
  exact exec_ascRx_of_receive (ascReceive_of_badPair _ hpend hc hend hpair)

/-- Settles O31: each operation writes its own unit, with at most one report in each of its cases. -/
theorem ascRxReportsAtMostOne : Obligations.AscRxReportsAtMostOne := by
  refine ⟨fun s c => ⟨(ascReceive s.cfg.ascCap s.asc c).1, _, exec_ascRx_of_receive rfl, ?rx⟩,
    fun s => ⟨(rtuElapse s.rtu).1, _, exec_rtuTick_of_elapse rfl, ?tick⟩⟩
  case rx =>
    rw [List.length_map]
    exact ascReceive_length_le_one _ _ c
  case tick =>
    rw [List.length_map]
    exact rtuElapse_length_le_one s.rtu

/-- Settles O33: the payload fits, and its wire form ends in its check byte and CR LF. -/
theorem ascSendEffect : Obligations.AscSendEffect := by
  refine ⟨decode_cmd_ascSend, fun s hfits => ?_⟩
  exact ⟨lrcOf s.lines.opb, lrcOf_toNat _, ascFrame s.lines.opb, rfl, ascFrame_length _,
    execAscSend_of_fits ((payloadFits_iff _ _).2 hfits)⟩

/-- Settles O34, by the run of the frame on the unit. -/
theorem ascFrameVerdict : Obligations.AscFrameVerdict := by
  intro s p l hroom
  obtain ⟨u, hrun, hasc, hrtu, hck⟩ := runOps_ascRx (ascFrameInit p l ++ [0x0A#8]) s
  rw [ascRun_frame hroom] at hrun hasc
  rw [← ascFrameInit_append_lf, ← ascFlush_eq]
  simp only [← lrcSum_snoc_eq_zero_iff]
  exact ⟨u, hrun, hasc, hrtu, hck⟩

/-- Settles O35: a payload and its own check byte sum to zero, and before the LF an idle U4 has nothing to report. -/
theorem ascRoundTrip : Obligations.AscRoundTrip := by
  rintro s p out hacc - hroom ⟨r, t, hexec, rfl, hresult⟩
  obtain ⟨-, rfl⟩ := execAscSend_eq_next hexec
  obtain rfl : ascFrame r.lines.opb = out := OpResult.bytes.inj hresult
  rw [ascFrame_eq, List.dropLast_concat]
  obtain ⟨v, hinit, -⟩ := runOps_ascRx (ascFrameInit r.lines.opb (lrcOf r.lines.opb)) s
  obtain ⟨u, hrun, hasc, -⟩ := runOps_ascRx (ascFrameInit r.lines.opb (lrcOf r.lines.opb) ++ [0x0A#8]) s
  rw [ascRun_ascFrameInit hroom, hacc] at hinit
  rw [ascRun_frame hroom, hacc, if_pos (lrcSum_append_lrcOf _)] at hrun hasc
  exact ⟨⟨v, hinit⟩, u, hrun, hasc⟩

/-- Settles O26, at either position of a pair alike. -/
theorem ascStartMarker : Obligations.AscStartMarker := by
  intro s
  rw [← ascFlush_eq]
  exact exec_ascRx_of_receive (ascReceive_colon _ s.asc)

/-- Settles O27, by the case of a first character. -/
theorem ascFirstOfPair : Obligations.AscFirstOfPair :=
  fun _ _ hc hpend => exec_ascRx_of_receive (ascReceive_of_first _ hc hpend)

end Sys2Proof.Machine
end

section
/-! SUPPORT. The registry by function code: which codes have an entry, and what an entry's description index is; what a
function code presented alone does; and the statements of the family 43_dispatch.md. -/

namespace Sys2Proof.Machine

/-! The registry (43_dispatch.md R220, R221). -/

theorem registry_isSome_iff : ∀ fc : Byte, (registry fc).isSome = true ↔ fc ∈ populatedCodes := by
  decide

theorem registry_of_unpopulated {fc : Byte} (h : fc ∉ populatedCodes) : registry fc = none :=
  Option.not_isSome_iff_eq_none.1 (mt (registry_isSome_iff fc).1 h)

/-- The populated codes are eleven base codes, with bit 7 clear or set. -/
theorem mem_populatedCodes_iff : ∀ fc : Byte, fc ∈ populatedCodes ↔
    fc.toNat % 128 ∈ [0x01, 0x02, 0x03, 0x04, 0x05, 0x06, 0x07, 0x08, 0x0F, 0x10, 0x11] := by
  decide

/-- An entry's description index is bits 6 to 0 of its code (R221). -/
theorem registry_descIdx {fc : Byte} {e : RegEntry} (h : registry fc = some e) : e.descIdx = fcDescIdx fc := by
  have key : ∀ fc : Byte, ∀ e ∈ registry fc, e.descIdx = fcDescIdx fc := by decide
  exact key fc e h

theorem fcDescIdx_eq (fc : Byte) : fcDescIdx fc = BitVec.ofNat 7 fc.toNat :=
  BitVec.eq_of_toNat_eq (by rw [fcDescIdx_toNat, BitVec.toNat_ofNat])

/-- The codes that have an entry, in ascending order. -/
theorem filter_registry_isSome :
    (List.range 256).filter (fun n => (registry (BitVec.ofNat 8 n)).isSome) = populatedCodes.map BitVec.toNat := by
  decide

/-- Of the 256 codes, all but the 22 populated ones have no entry (30_encoding.md R126). -/
theorem filter_registry_isNone_length :
    ((List.range 256).filter fun n => (registry (BitVec.ofNat 8 n)).isNone).length = 234 := by
  have htotal := (List.range 256).length_eq_length_filter_add fun n => (registry (BitVec.ofNat 8 n)).isSome
  simp only [Option.not_isSome] at htotal
  rw [filter_registry_isSome, List.length_map, List.length_range] at htotal
  have hpopulated : populatedCodes.length = 22 := rfl
  omega

/-! The dispatch (R245, 45_frame_decoder.md R291). -/

theorem dispatch_fcErr (fc fmtSel : Byte) (d : List Byte) : (dispatch fc fmtSel d).fcErr = fcErrBit fc := by
  cases h : registry fc <;> simp only [dispatch, dispatchEntry, h]

/-- The description index of a dispatch is that of its code, whether the code has an entry or not. -/
theorem dispatch_descIdx (fc fmtSel : Byte) (d : List Byte) : (dispatch fc fmtSel d).descIdx = fcDescIdx fc := by
  cases h : registry fc with
  | none => simp only [dispatch, dispatchEntry, h]
  | some e => simp only [dispatch, dispatchEntry, h, registry_descIdx h]

/-- The frame decoder's view of a segment of two bytes or more, by the dispatch alone (45_frame_decoder.md R290). -/
theorem decodeFrame_eq_dispatch (tag : ReportKind) (a fc fmtSel : Byte) (d : List Byte) :
    decodeFrame tag (a :: fc :: d) fmtSel =
      { tag := tag,
        body := some ⟨a, fc, (dispatch fc fmtSel d).fcErr, (dispatch fc fmtSel d).descIdx, (dispatch fc fmtSel d).known,
          (dispatch fc fmtSel d).request, (dispatch fc fmtSel d).response⟩ } := by
  rw [decodeFrame_cons_cons, dispatch_fcErr, dispatch_descIdx]

/-! A function code presented alone. -/

/-- A code with an entry is known, and its two directions are run apart (R246). -/
theorem dispatchAs_some (s : State) (e : RegEntry) (fc : Byte) : s.dispatchAs (some e) fc =
    .next (s.setResult (.dispatched ⟨true, fcErrBit fc, e.descIdx, runDirection e.request s.lines.fmtSel s.lines.opb,
      runDirection e.response s.lines.fmtSel s.lines.opb⟩)) := rfl

/-- A code whose entry names no codec decodes nothing, whatever the data field. -/
theorem dispatchAs_of_no_codec (s : State) {e : RegEntry} (fc : Byte) (hreq : e.request = none) (hresp : e.response = none) :
    s.dispatchAs (some e) fc = .next (s.setResult (.dispatched ⟨true, fcErrBit fc, e.descIdx, none, none⟩)) := by
  rw [dispatchAs_some, hreq, hresp, runDirection_none]

/-- A code without an entry is no error (R244). -/
theorem exec_fcUnknown (fc : Byte) (s : State) : exec (.fcUnknown fc) s =
    .next (s.setResult (.dispatched ⟨false, fcErrBit fc, fcDescIdx fc, none, none⟩)) := rfl

/-- The operation that a function code decodes to dispatches on that code's registry lookup: the rows of the opcode table
and those of the registry agree (R245). -/
theorem exec_decodeFc (fc : Byte) (s : State) : exec (decodeFc fc) s = s.dispatchAs (registry fc) fc := by
  by_cases h : fc ∈ populatedCodes
  case pos =>
    simp only [populatedCodes, List.mem_cons, List.not_mem_nil, or_false] at h
    rcases h with rfl | rfl | rfl | rfl | rfl | rfl | rfl | rfl | rfl | rfl | rfl
      | rfl | rfl | rfl | rfl | rfl | rfl | rfl | rfl | rfl | rfl | rfl
    all_goals rfl
  case neg =>
    rw [decodeFc_of_unpopulated fc h, registry_of_unpopulated h]
    rfl

/-! The obligations. -/

/-- Settles O49: both are the dispatch of the code on the data field in `OPB`. -/
theorem functionCodeRowsAgree : Obligations.FunctionCodeRowsAgree :=
  fun s fc slaveAddr tag => ⟨dispatch fc s.lines.fmtSel s.lines.opb, exec_decodeFc fc s,
    decodeFrame_eq_dispatch tag slaveAddr fc s.lines.fmtSel s.lines.opb⟩

/-- Settles O45: the entries are those of the 22 populated codes, which leaves 234 without one. -/
theorem registryContents : Obligations.RegistryContents := by
  refine ⟨fun fc => (registry_isSome_iff fc).trans (mem_populatedCodes_iff fc), filter_registry_isNone_length,
    fun fc e h => ?descIdx⟩
  case descIdx =>
    rw [registry_descIdx h, fcDescIdx_toNat]

/-- Settles O46: each code dispatches on its entry; 0x07, 0x08 and 0x11 name no codec. -/
theorem baseFunctionCodes : Obligations.BaseFunctionCodes := fun s =>
  ⟨dispatchAs_some s entry01 0x01#8, dispatchAs_some s entry02 0x02#8, dispatchAs_some s entry03 0x03#8,
    dispatchAs_some s entry04 0x04#8, dispatchAs_some s entry05 0x05#8, dispatchAs_some s entry06 0x06#8,
    dispatchAs_of_no_codec s 0x07#8 rfl rfl, dispatchAs_of_no_codec s 0x08#8 rfl rfl,
    dispatchAs_some s entry0F 0x0F#8, dispatchAs_some s entry10 0x10#8, dispatchAs_of_no_codec s 0x11#8 rfl rfl⟩

/-- Settles O47: no error-flagged code's entry names a codec. -/
theorem errorFlaggedCodes : Obligations.ErrorFlaggedCodes := fun s =>
  ⟨dispatchAs_of_no_codec s 0x81#8 rfl rfl, dispatchAs_of_no_codec s 0x82#8 rfl rfl,
    dispatchAs_of_no_codec s 0x83#8 rfl rfl, dispatchAs_of_no_codec s 0x84#8 rfl rfl,
    dispatchAs_of_no_codec s 0x85#8 rfl rfl, dispatchAs_of_no_codec s 0x86#8 rfl rfl,
    dispatchAs_of_no_codec s 0x87#8 rfl rfl, dispatchAs_of_no_codec s 0x88#8 rfl rfl,
    dispatchAs_of_no_codec s 0x8F#8 rfl rfl, dispatchAs_of_no_codec s 0x90#8 rfl rfl,
    dispatchAs_of_no_codec s 0x91#8 rfl rfl⟩

/-- Settles O48: a code outside the eleven base codes, bit 7 aside, has no row and no entry. -/
theorem unknownFunctionCodes : Obligations.UnknownFunctionCodes := by
  intro s fc hbase
  refine ⟨decodeFc_of_unpopulated fc (mt (mem_populatedCodes_iff fc).1 hbase), ?effect⟩
  case effect =>
    rw [exec_fcUnknown, fcErrBit_eq, fcDescIdx_eq]
    rfl

end Sys2Proof.Machine
end

section
/-! SUPPORT. What each codec answers on each form of the data field, by its length, its count, its selected widths and its
value; and the statements of the family 44_field_codecs.md. -/

namespace Sys2Proof.Machine

/-- The select of a codec records what that codec answers on the data field. -/
theorem exec_csel_of_run {c : Codec} {s : State} {r : CodecResult} (h : c.run s.lines.fmtSel s.lines.opb = r) :
    exec (decode (.csel (cselCode (some c)))) s = .next { s with result := .codec (some r) } := by
  rw [exec_decode_cselCode, h]
  rfl

/-! AQ and AR (44_field_codecs.md R260, R271). -/

theorem decodeAq_of_ne {d : List Byte} (h : d.length ≠ 4) : decodeAq d = .err (DecErr.mk .lenNe 4 d.length) := by
  rw [decodeAq, twoHalves_of_ne h, CodecResult.of_error]

theorem decodeAr_of_ne {d : List Byte} (h : d.length ≠ 4) : decodeAr d = .err (DecErr.mk .lenNe 4 d.length) := by
  rw [decodeAr, twoHalves_of_ne h, CodecResult.of_error]

/-! BOOLS (R262). -/

theorem byteBools_getElem? (y : Byte) {j : Nat} (h : j < 8) : (byteBools y)[j]? = some (y.getLsbD (7 - j)) := by
  interval_cases j
  all_goals rfl

theorem unpackBools_cons (b : Byte) (bs : List Byte) : unpackBools (b :: bs) = byteBools b ++ unpackBools bs :=
  List.flatMap_cons

/-- Boolean `j` is a bit of packed byte `j div 8`, most significant bit first (30_encoding.md R113). -/
theorem unpackBools_getElem? {bs : List Byte} {j : Nat} (h : j < 8 * bs.length) :
    (unpackBools bs)[j]? = some ((bs.getD (j / 8) 0x00#8).getLsbD (7 - j % 8)) := by
  induction bs generalizing j with
  | nil => exact absurd h (Nat.not_lt_zero j)
  | cons b bs ih =>
    have hlength : (byteBools b).length = 8 := rfl
    rw [unpackBools_cons]
    rcases Nat.lt_or_ge j 8 with hj | hj
    · rw [List.getElem?_append_left (hlength ▸ hj), byteBools_getElem? b hj, Nat.div_eq_of_lt hj, Nat.mod_eq_of_lt hj,
        List.getD_cons_zero]
    · rw [List.length_cons] at h
      rw [List.getElem?_append_right (hlength ▸ hj), hlength, ih (by omega), Nat.div_eq_sub_div (by decide) hj,
        List.getD_cons_succ, Nat.mod_eq_sub_mod hj]

theorem decodeBools_of_ne {n : Byte} {r : List Byte} (h : r.length ≠ n.toNat) :
    decodeBools (n :: r) = .err (DecErr.mk .lenDecl (1 + n.toNat) (n :: r).length) := by
  rw [decodeBools, boolsFields, counted_of_ne h]
  rfl

theorem decodeBools_of_eq {n : Byte} {r : List Byte} (h : r.length = n.toNat) :
    decodeBools (n :: r) = .ok (.bools n (unpackBools r)) := by
  rw [decodeBools, boolsFields, counted_of_eq h]
  rfl

/-! REGS (R266): the tests in their order. -/

theorem selected_pairwise_bit (fmtSel : Byte) : (selected fmtSel).Pairwise (fun f g => f.bit < g.bit) := by
  have hall : Fmt.all.Pairwise (fun f g => f.bit < g.bit) := by decide
  exact hall.filter _

/-- The readings stand in bit order, so the first selected one with a property is the one of the lowest bit. -/
theorem find?_selected_of_lowest {fmtSel : Byte} {p : Fmt → Bool} {f : Fmt} (hsel : fmtSel.getLsbD f.bit = true)
    (hf : p f = true) (hlowest : ∀ g : Fmt, g.bit < f.bit → fmtSel.getLsbD g.bit = true → p g = false) :
    (selected fmtSel).find? p = some f := by
  obtain ⟨before, after, hsplit⟩ := List.append_of_mem ((mem_selected fmtSel f).2 hsel)
  have hbelow : ∀ g ∈ before, g.bit < f.bit := fun g hg =>
    (List.pairwise_append.1 (hsplit ▸ selected_pairwise_bit fmtSel)).2.2 g hg f List.mem_cons_self
  have hbefore : ∀ g ∈ before, fmtSel.getLsbD g.bit = true := fun g hg =>
    (mem_selected fmtSel g).1 (hsplit ▸ List.mem_append_left _ hg)
  refine List.find?_eq_some_iff_append.2 ⟨hf, before, after, hsplit, fun g hg => ?_⟩
  rw [hlowest g (hbelow g hg) (hbefore g hg)]
  rfl

theorem decodeRegs_of_ne {n : Byte} {r : List Byte} (fmtSel : Byte) (h : r.length ≠ n.toNat) :
    decodeRegs fmtSel (n :: r) = .err (DecErr.mk .lenDecl (1 + n.toNat) (n :: r).length) := by
  rw [decodeRegs, regsFields, counted_of_ne h]
  rfl

theorem decodeRegs_of_odd {n : Byte} {r : List Byte} (fmtSel : Byte) (h : r.length = n.toNat) (hodd : n.toNat % 2 = 1) :
    decodeRegs fmtSel (n :: r) = .err (DecErr.mk .oddCount 2 n.toNat) := by
  simp [decodeRegs, regsFields, counted_of_eq h, hodd, failWith]

/-- An even count that a selected width does not divide: the least such width is named (60_exceptions.md R307). -/
theorem decodeRegs_of_indivisible {n : Byte} {r : List Byte} {fmtSel : Byte} {f : Fmt} (h : r.length = n.toNat)
    (heven : n.toNat % 2 = 0) (hsel : fmtSel.getLsbD f.bit = true) (hf : n.toNat % f.width ≠ 0)
    (hlowest : ∀ g : Fmt, g.bit < f.bit → fmtSel.getLsbD g.bit = true → n.toNat % g.width = 0) :
    decodeRegs fmtSel (n :: r) = .err (DecErr.mk .widthDiv f.width n.toNat) := by
  have hfind : (selected fmtSel).find? (fun g => n.toNat % g.width ≠ 0) = some f :=
    find?_selected_of_lowest hsel (decide_eq_true hf) fun g hbit hg => decide_eq_false (not_not_intro (hlowest g hbit hg))
  simp only [decodeRegs, regsFields, counted_of_eq h, heven, hfind]
  rfl

/-- An even count that every selected width divides. -/
theorem decodeRegs_of_divisible {n : Byte} {r : List Byte} {fmtSel : Byte} (h : r.length = n.toNat)
    (heven : n.toNat % 2 = 0) (hdvd : ∀ f : Fmt, fmtSel.getLsbD f.bit = true → n.toNat % f.width = 0) :
    decodeRegs fmtSel (n :: r) = .ok (.regs n ((selected fmtSel).map (fun f => readAs f r))) := by
  have hfind : (selected fmtSel).find? (fun f => n.toNat % f.width ≠ 0) = none :=
    List.find?_eq_none.2 fun f hf => by simp [hdvd f ((mem_selected fmtSel f).1 hf)]
  simp only [decodeRegs, regsFields, counted_of_eq h, heven, hfind]
  rfl

/-! AB (R269). -/

/-- Format AB has one false value and two true ones; no other is legal (30_encoding.md R112, R128). -/
theorem coilValue_eq (v : Half) : coilValue v =
    if v.toNat = 0x0000 then some false else if v.toNat = 0xFF00 ∨ v.toNat = 0x00FF then some true else none := by
  simp only [coilValue, BitVec.toNat_eq, ite_or]
  rfl

theorem decodeAb_of_ne {d : List Byte} (h : d.length ≠ 4) : decodeAb d = .err (DecErr.mk .lenNe 4 d.length) := by
  rw [decodeAb, coilFields, twoHalves_of_ne h]
  rfl

theorem decodeAb_of_some {a b c d : Byte} {v : Bool} (h : coilValue (pair c d) = some v) :
    decodeAb [a, b, c, d] = .ok (.ab (pair a b) v) := by
  simp only [decodeAb, coilFields, twoHalves_four, h]
  rfl

theorem decodeAb_of_none {a b c d : Byte} (h : coilValue (pair c d) = none) :
    decodeAb [a, b, c, d] = .err (DecErr.mk .boolVal 0xFF00 (c.toNat * 256 + d.toNat)) := by
  simp only [decodeAb, coilFields, twoHalves_four, h, ← pair_toNat]
  rfl

/-! AQB and AQR (R273, R275). -/

/-- With a fifth byte, a composite succeeds or fails as its sub-codec does on what follows the first 4 bytes. -/
theorem composite_cases {α : Type} (sub : List Byte → Except DecErr α) (a b c d : Byte) {rest : List Byte}
    (hrest : rest ≠ []) :
    (∃ x, sub rest = .ok x ∧ composite sub (a :: b :: c :: d :: rest) = .ok ((pair a b, pair c d), x)) ∨
    (∃ e, sub rest = .error e ∧ composite sub (a :: b :: c :: d :: rest) = .error e) := by
  cases h : sub rest with
  | ok x => exact .inl ⟨x, rfl, composite_ok hrest h⟩
  | error e => exact .inr ⟨e, rfl, composite_error hrest h⟩

theorem decodeAqb_of_short {d : List Byte} (h : d.length ≤ 4) : decodeAqb d = .err (DecErr.mk .tooShort 5 d.length) := by
  rw [decodeAqb, composite_short _ h, CodecResult.of_error]

theorem decodeAqr_of_short (fmtSel : Byte) {d : List Byte} (h : d.length ≤ 4) :
    decodeAqr fmtSel d = .err (DecErr.mk .tooShort 5 d.length) := by
  rw [decodeAqr, composite_short _ h, CodecResult.of_error]

theorem decodeAqb_cases (a b c d : Byte) {rest : List Byte} (hrest : rest ≠ []) :
    (∃ n bs, decodeBools rest = .ok (.bools n bs) ∧
      decodeAqb (a :: b :: c :: d :: rest) = .ok (.aqb (pair a b) (pair c d) n bs)) ∨
    (∃ e, decodeBools rest = .err e ∧ decodeAqb (a :: b :: c :: d :: rest) = .err e) := by
  rw [decodeBools, decodeAqb]
  rcases composite_cases boolsFields a b c d hrest with ⟨⟨n, bs⟩, hsub, hall⟩ | ⟨e, hsub, hall⟩ <;> rw [hsub, hall]
  · exact .inl ⟨n, bs, rfl, rfl⟩
  · exact .inr ⟨e, rfl, rfl⟩

theorem decodeAqr_cases (fmtSel a b c d : Byte) {rest : List Byte} (hrest : rest ≠ []) :
    (∃ n vs, decodeRegs fmtSel rest = .ok (.regs n vs) ∧
      decodeAqr fmtSel (a :: b :: c :: d :: rest) = .ok (.aqr (pair a b) (pair c d) n vs)) ∨
    (∃ e, decodeRegs fmtSel rest = .err e ∧ decodeAqr fmtSel (a :: b :: c :: d :: rest) = .err e) := by
  rw [decodeRegs, decodeAqr]
  rcases composite_cases (regsFields fmtSel) a b c d hrest with ⟨⟨n, vs⟩, hsub, hall⟩ | ⟨e, hsub, hall⟩ <;>
    rw [hsub, hall]
  · exact .inl ⟨n, vs, rfl, rfl⟩
  · exact .inr ⟨e, rfl, rfl⟩

/-! The obligations. -/

/-- Settles O38: the booleans are the bits of the bytes after the count, in R113's order. -/
theorem boolsCodec : Obligations.BoolsCodec := by
  refine ⟨rfl, fun s => ⟨fun hopb => ?empty, fun n r hopb => ⟨fun hlen => ?wrongCount, fun hlen => ?rightCount⟩⟩⟩
  case empty =>
    exact exec_csel_of_run (c := .bools) (hopb ▸ rfl)
  case wrongCount =>
    exact exec_csel_of_run (c := .bools) (hopb ▸ decodeBools_of_ne hlen)
  case rightCount =>
    refine ⟨unpackBools r, hlen ▸ unpackBools_length r, fun j hj => unpackBools_getElem? (hlen ▸ hj), ?_⟩
    exact exec_csel_of_run (c := .bools) (hopb ▸ decodeBools_of_eq hlen)

/-- Settles O39, test by test; the readings of the last case are `selected` written out. -/
theorem regsCodecTests : Obligations.RegsCodecTests := by
  refine ⟨rfl, fun s => ⟨fun hopb => ?empty, fun n r hopb => ⟨fun hlen => ?length, fun hlen hodd => ?parity,
    fun f hlen heven hsel hf hlowest => ?width, fun hlen heven hdvd => ?pass⟩⟩⟩
  all_goals apply exec_csel_of_run (c := .regs)
  case empty => exact hopb ▸ rfl
  case length => exact hopb ▸ decodeRegs_of_ne _ hlen
  case parity => exact hopb ▸ decodeRegs_of_odd _ hlen hodd
  case width => exact hopb ▸ decodeRegs_of_indivisible hlen heven hsel hf hlowest
  case pass => exact hopb ▸ decodeRegs_of_divisible hlen heven hdvd

/-- Settles O42: the second field is the value, and `coilValue` has R112's three. -/
theorem coilCodec : Obligations.CoilCodec := by
  refine ⟨rfl, fun s => ⟨fun hlen => exec_csel_of_run (c := .ab) (decodeAb_of_ne hlen), fun a b c d hopb => ?_⟩⟩
  have hvalue := coilValue_eq (pair c d)
  rw [pair_toNat] at hvalue
  refine ⟨pair a b, pair_toNat a b, fun hoff => ?off, fun hon => ?on, fun h₁ h₂ h₃ => ?illegal⟩
  case off =>
    rw [if_pos hoff] at hvalue
    exact exec_csel_of_run (c := .ab) (hopb ▸ decodeAb_of_some hvalue)
  case on =>
    rw [if_neg (by omega), if_pos hon] at hvalue
    exact exec_csel_of_run (c := .ab) (hopb ▸ decodeAb_of_some hvalue)
  case illegal =>
    rw [if_neg h₁, if_neg (not_or_intro h₂ h₃)] at hvalue
    exact exec_csel_of_run (c := .ab) (hopb ▸ decodeAb_of_none hvalue)

/-- Settles O43: the sub-codec's answer on the rest decides between the two cases of each composite. -/
theorem compositeCodecs : Obligations.CompositeCodecs := by
  refine ⟨rfl, rfl, fun s => ⟨fun hlen => ⟨?aqbShort, ?aqrShort⟩, fun a b c d rest hopb hrest =>
    ⟨pair a b, pair c d, pair_toNat a b, pair_toNat c d, ?aqb, ?aqr⟩⟩⟩
  case aqbShort => exact exec_csel_of_run (c := .aqb) (decodeAqb_of_short hlen)
  case aqrShort => exact exec_csel_of_run (c := .aqr) (decodeAqr_of_short _ hlen)
  case aqb =>
    rcases decodeAqb_cases a b c d hrest with ⟨n, bs, hsub, hall⟩ | ⟨e, hsub, hall⟩
    · exact .inl ⟨n, bs, hsub, exec_csel_of_run (c := .aqb) (hopb ▸ hall)⟩
    · exact .inr ⟨e, hsub, exec_csel_of_run (c := .aqb) (hopb ▸ hall)⟩
  case aqr =>
    rcases decodeAqr_cases s.lines.fmtSel a b c d hrest with ⟨n, vs, hsub, hall⟩ | ⟨e, hsub, hall⟩
    · exact .inl ⟨n, vs, hsub, exec_csel_of_run (c := .aqr) (hopb ▸ hall)⟩
    · exact .inr ⟨e, hsub, exec_csel_of_run (c := .aqr) (hopb ▸ hall)⟩

/-- Settles O37: both codecs are the two fields, under their own names. -/
theorem fixedCodecs : Obligations.FixedCodecs := by
  refine ⟨rfl, rfl, fun s => ⟨fun a b c d hopb => ⟨pair a b, pair c d, pair_toNat a b, pair_toNat c d, ?aq, ?ar⟩,
    fun hlen => ⟨?aqLength, ?arLength⟩⟩⟩
  case aq => exact exec_csel_of_run (c := .aq) (hopb ▸ rfl)
  case ar => exact exec_csel_of_run (c := .ar) (hopb ▸ rfl)
  case aqLength => exact exec_csel_of_run (c := .aq) (decodeAq_of_ne hlen)
  case arLength => exact exec_csel_of_run (c := .ar) (decodeAr_of_ne hlen)

end Sys2Proof.Machine
end

section
/-! SUPPORT. When a frame has a body, the two interpretations of a dispatch as lookups in the registry, and that they are
present together; and the statements of the family 45_frame_decoder.md. -/

namespace Sys2Proof.Machine

/-! The body of a decoded frame (45_frame_decoder.md R290, R292). -/

/-- Fewer than two bytes are no frame (R292). -/
theorem decodeFrame_of_short {seg : List Byte} (h : seg.length < 2) (tag : ReportKind) (fmtSel : Byte) :
    decodeFrame tag seg fmtSel = { tag := tag, body := none } := by
  match seg, h with
  | [], _ => exact decodeFrame_nil tag fmtSel
  | [x], _ => exact decodeFrame_singleton tag x fmtSel
  | _ :: _ :: d, h => exact absurd h (Nat.not_lt.2 (Nat.le_add_left 2 d.length))

/-- A segment with a body holds an address, a code and a data field, and the interpretations are the dispatch's. -/
theorem decodeFrame_body_eq_some {tag : ReportKind} {seg : List Byte} {fmtSel : Byte} {f : FrameBody}
    (h : (decodeFrame tag seg fmtSel).body = some f) :
    ∃ a fc d, seg = a :: fc :: d ∧ f.master = (dispatch fc fmtSel d).request ∧
      f.slave = (dispatch fc fmtSel d).response := by
  match seg with
  | [] => cases h
  | [_] => cases h
  | a :: fc :: d =>
    obtain rfl := Option.some.inj h
    exact ⟨a, fc, d, rfl, rfl, rfl⟩

theorem decodeFrame_body_eq_none_iff (tag : ReportKind) (seg : List Byte) (fmtSel : Byte) :
    (decodeFrame tag seg fmtSel).body = none ↔ seg.length < 2 := by
  constructor
  · intro h
    match seg with
    | [] => exact Nat.zero_lt_two
    | [_] => exact Nat.one_lt_two
    | _ :: _ :: _ => cases h
  · intro h
    rw [decodeFrame_of_short h]

/-! The two directions of a dispatch (43_dispatch.md R245 to R247). -/

/-- A dispatch by the registry: each direction runs the codec that the code's entry names for it, if there is one. -/
theorem dispatch_eq_registry (fc fmtSel : Byte) (d : List Byte) : dispatch fc fmtSel d =
    ⟨(registry fc).isSome, fcErrBit fc, fcDescIdx fc, runDirection ((registry fc).bind RegEntry.request) fmtSel d,
      runDirection ((registry fc).bind RegEntry.response) fmtSel d⟩ := by
  cases h : registry fc with
  | none => simp only [dispatch, dispatchEntry, h, Option.isSome_none, Option.bind_none, runDirection_none]
  | some e => simp only [dispatch, dispatchEntry, h, registry_descIdx h, Option.isSome_some, Option.bind_some]

theorem runDirection_eq_none_iff (c : Option Codec) (fmtSel : Byte) (d : List Byte) :
    runDirection c fmtSel d = none ↔ c = none :=
  Option.map_eq_none_iff

/-- The registry names a codec for both directions of a code or for neither (R247). -/
theorem registry_request_eq_none_iff : ∀ fc : Byte,
    (registry fc).bind RegEntry.request = none ↔ (registry fc).bind RegEntry.response = none := by
  decide

/-- One direction absent and the other present cannot occur (45_frame_decoder.md R293). -/
theorem dispatch_request_eq_none_iff (fc fmtSel : Byte) (d : List Byte) :
    (dispatch fc fmtSel d).request = none ↔ (dispatch fc fmtSel d).response = none := by
  rw [dispatch_eq_registry, runDirection_eq_none_iff, runDirection_eq_none_iff]
  exact registry_request_eq_none_iff fc

/-- Two interpretations that are present together are in one of R293's states, the third of which has two sides. -/
theorem interpretation_cases {m r : Option CodecResult} (h : m = none ↔ r = none) :
    (m = none ∧ r = none) ∨
    (∃ e e', m = some (.err e) ∧ r = some (.err e')) ∨
    (∃ v e, m = some (.ok v) ∧ r = some (.err e)) ∨
    (∃ v e, m = some (.err e) ∧ r = some (.ok v)) ∨
    (∃ v v', m = some (.ok v) ∧ r = some (.ok v')) := by
  match m, r with
  | none, _ => exact .inl ⟨rfl, h.1 rfl⟩
  | some _, none => cases h.2 rfl
  | some (.err e), some (.err e') => exact .inr (.inl ⟨e, e', rfl, rfl⟩)
  | some (.ok v), some (.err e) => exact .inr (.inr (.inl ⟨v, e, rfl, rfl⟩))
  | some (.err e), some (.ok v) => exact .inr (.inr (.inr (.inl ⟨v, e, rfl, rfl⟩)))
  | some (.ok v), some (.ok v') => exact .inr (.inr (.inr (.inr ⟨v, v', rfl, rfl⟩)))

/-- The decoded frame of a segment of two bytes or more, by the registry (R290, R291). -/
theorem decodeFrame_eq_registry (tag : ReportKind) (a fc fmtSel : Byte) (d : List Byte) :
    decodeFrame tag (a :: fc :: d) fmtSel =
      { tag := tag,
        body := some ⟨a, fc, decide (128 ≤ fc.toNat), BitVec.ofNat 7 fc.toNat, (registry fc).isSome,
          runDirection ((registry fc).bind RegEntry.request) fmtSel d,
          runDirection ((registry fc).bind RegEntry.response) fmtSel d⟩ } := by
  rw [decodeFrame_cons_cons, fcErrBit_eq, fcDescIdx_eq, dispatch_eq_registry]

/-! The obligations. -/

/-- Settles O53: the meaning itself, the reset values of the units written out. -/
theorem sysResetEffect : Obligations.SysResetEffect :=
  ⟨decode_cmd_sysReset, fun _ => rfl⟩

/-- Settles O51: the three tags are those of the report kinds, and what is returned is the decoded frame. -/
theorem decFrameEffect : Obligations.DecFrameEffect := by
  refine ⟨decode_cmd_decFrame, fun s tag kind htag => ?effect⟩
  case effect =>
    have hkind : ReportKind.ofCode tag = some kind := by
      rcases htag with ⟨rfl, rfl⟩ | ⟨rfl, rfl⟩ | ⟨rfl, rfl⟩
      all_goals rfl
    have hexec : exec (.decFrame tag) s = .next (s.setResult (.frame (decodeFrame kind s.lines.opb s.lines.fmtSel))) :=
      execDecFrame_of_kind hkind s
    refine ⟨fun hshort => ?short, fun a fc d hopb => ?frame⟩
    case short =>
      rw [hexec, decodeFrame_of_short hshort]
      rfl
    case frame =>
      rw [hexec, hopb, decodeFrame_eq_registry]
      rfl

/-- Settles O50: the registry keeps the two directions together, which leaves the four states. Code 0x07, which has no codec,
witnesses the first of them and code 0x02 the others: with no data, and with the two data fields of 43_dispatch.md R223. -/
theorem frameStates : Obligations.FrameStates := by
  refine ⟨fun tag seg fmtSel => ⟨decodeFrame_body_eq_none_iff tag seg fmtSel, fun f hf => ?oneOfFour⟩,
    ?bothAbsent, ?bothErrored, ?oneDecoded, ?bothDecoded⟩
  case oneOfFour =>
    obtain ⟨_, fc, d, -, hmaster, hslave⟩ := decodeFrame_body_eq_some hf
    rw [hmaster, hslave]
    exact interpretation_cases (dispatch_request_eq_none_iff fc fmtSel d)
  case bothAbsent => exact ⟨[0x11#8, 0x07#8], _, rfl, rfl, rfl⟩
  case bothErrored => exact ⟨[0x11#8, 0x02#8], _, _, _, rfl, rfl, rfl⟩
  case oneDecoded => exact ⟨[0x11#8, 0x02#8, 0x00#8, 0xC4#8, 0x00#8, 0x16#8], _, _, _, rfl, rfl, rfl⟩
  case bothDecoded => exact ⟨[0x11#8, 0x02#8, 0x03#8, 0xAC#8, 0xDB#8, 0x35#8], _, _, _, rfl, rfl, rfl⟩

end Sys2Proof.Machine
end

section
/-! SUPPORT. The CRC step on the accumulator as an injective map, runs of RTU.TICK as runs of the unit, what a stream of
RTU.RX and RTU.TICK accounts for whatever the other units hold, and which operations complete; and the statements of the family
60_exceptions.md. -/

namespace Sys2Proof.Machine

/-! The CRC step (40_checksum.md R141, 60_exceptions.md R325). -/

/-- Two accumulators that agree after the same byte agreed before it: their difference has become zero under a zero byte. -/
theorem crc16Step_injective (b : Byte) : Function.Injective (fun c : Half => crc16Step c b) := by
  intro x y hxy
  have hdiff : crc16Step (x ^^^ y) 0x00#8 = 0x0000#16 := by
    rw [← crc16Step_xor_same x y b]
    exact BitVec.xor_eq_zero_iff.2 hxy
  exact BitVec.xor_eq_zero_iff.1 ((crc16Step_eq_zero_iff _ _).1 hdiff)

/-! Runs of RTU.TICK (41_rtu_sync.md R170, R172). -/

/-- What `k` ticks do to U3: the unit afterwards and all the reports, in order. -/
def tickRun : Nat → Rtu → Rtu × List Report
  | 0, u => (u, [])
  | k + 1, u => ((tickRun k (rtuElapse u).1).1, (rtuElapse u).2 ++ (tickRun k (rtuElapse u).1).2)

theorem tickRun_succ_of_elapse {u v : Rtu} {rs : List Report} (k : Nat) (h : rtuElapse u = (v, rs)) :
    tickRun (k + 1) u = ((tickRun k v).1, rs ++ (tickRun k v).2) := by
  rw [tickRun, h]

/-- A run of RTU.TICK completes, and does to the state what the ticks do to U3. -/
theorem runOps_rtuTick (k : Nat) (s : State) :
    ∃ t, runOps (List.replicate k .rtuTick) s = some (t, (tickRun k s.rtu).2) ∧
      t.rtu = (tickRun k s.rtu).1 ∧ t.ck = s.ck ∧ t.asc = s.asc := by
  induction k generalizing s with
  | zero => exact ⟨s, rfl, rfl, rfl, rfl⟩
  | succ k ih =>
    obtain ⟨v, hexec, hnext⟩ := exec_rtuTick_next s
    obtain ⟨t, hrun, hrtu, hck, hasc⟩ := ih v
    rw [hnext.rtu] at hrun hrtu
    refine ⟨t, ?_, hrtu, hck.trans hnext.ck, hasc.trans hnext.asc⟩
    rw [List.replicate_succ, runOps_cons_next hexec, hrun, hnext.reported]
    rfl

/-- While the timer is not armed ticks do nothing. -/
theorem tickRun_of_unarmed {u : Rtu} (h : u.timer = none) (k : Nat) : tickRun k u = (u, []) := by
  induction k with
  | zero => rfl
  | succ k ih => rw [tickRun_succ_of_elapse k (rtuElapse_of_unarmed h), ih, List.append_nil]

/-- Fewer ticks than the count only count down. -/
theorem tickRun_of_lt_count {u : Rtu} {c : BitVec 16} {k : Nat} (h : u.timer = some c) (hk : k < c.toNat) :
    tickRun k u = ({ u with timer := some (BitVec.ofNat 16 (c.toNat - k)) }, []) := by
  induction k generalizing u c with
  | zero => simp [tickRun, ← h]
  | succ k ih =>
    have hsub : (c - 1#16).toNat = c.toNat - 1 := sub_one_toNat (by omega)
    rw [tickRun_succ_of_elapse k (rtuElapse_of_counting h (by omega)), ih rfl (by omega), hsub, Nat.sub_sub,
      Nat.add_comm 1 k, List.append_nil]

/-- As many ticks as the count, or more, flush the window once and leave U3 empty. -/
theorem tickRun_of_count_le {u : Rtu} {c : BitVec 16} {k : Nat} (h : u.timer = some c) (hc : 1 ≤ c.toNat)
    (hk : c.toNat ≤ k) : tickRun k u = ({ win := [], timer := none }, rtuFlush u.win) := by
  induction k generalizing u c with
  | zero => omega
  | succ k ih =>
    rcases hc.eq_or_lt with hlast | hcounting
    · obtain rfl : c = 1#16 := BitVec.eq_of_toNat_eq hlast.symm
      rw [tickRun_succ_of_elapse k (rtuElapse_of_last h), tickRun_of_unarmed rfl, List.append_nil]
    · have hsub : (c - 1#16).toNat = c.toNat - 1 := sub_one_toNat hc
      rw [tickRun_succ_of_elapse k (rtuElapse_of_counting h hcounting), ih rfl (by omega) (by omega), List.nil_append]

/-! Streams of RTU.RX and RTU.TICK (R176). -/

/-- RTU.RX keeps each lane the CRC from its own entry on (10_state.md R38). -/
theorem LanesHold.receive {win : List Tracked} (h : LanesHold win) (cfg : Config) (baud : BitVec 32) (b : Byte) :
    LanesHold (rtuReceive cfg baud win b).1.win := by
  rcases rtuReceive_cases cfg baud win b with ⟨i, -, he⟩ | ⟨-, -, he⟩ | ⟨-, -, he⟩ <;> rw [he]
  · exact lanesHold_nil
  · exact (h.received b).drop _
  · exact h.received b

/-- RTU.TICK keeps each lane the CRC from its own entry on (10_state.md R38). -/
theorem LanesHold.elapse {u : Rtu} (h : LanesHold u.win) : LanesHold (rtuElapse u).1.win := by
  rcases rtuElapse_cases u with ⟨-, he⟩ | ⟨c, -, -, he⟩ | ⟨-, he⟩ <;> rw [he]
  · exact h
  · exact h
  · exact lanesHold_nil

/-- What a stream of RTU.RX and RTU.TICK asks of the state and keeps: a `baud`, candidates no shorter than a trailer, and lanes
that hold. `State.Inv` speaks of U4 and the timer too. -/
structure Streaming (s : State) : Prop where
  baud : s.lines.baud ≠ 0#32
  minLen : 2 ≤ s.cfg.minMatchLen
  lanes : LanesHold s.rtu.win

/-- A next state that differs in U3 and the result only, with lanes that hold, still streams. -/
theorem Streaming.of_rtuNext {s t : State} {u : Rtu} {rs : List Report} (hs : Streaming s) (ht : RtuNext s t u rs)
    (hlanes : LanesHold u.win) : Streaming t :=
  ⟨ht.lines ▸ hs.baud, ht.cfg ▸ hs.minLen, ht.rtu ▸ hlanes⟩

/-- One operation of a stream completes, and accounts for the window and the byte received. -/
theorem Streaming.exec_accounts {i : Instr} {s : State} (hs : Streaming s) (hi : (∃ b, i = .rtuRx b) ∨ i = .rtuTick) :
    ∃ t, exec i s = .next t ∧ Streaming t ∧
      t.reported.flatMap wireBytes ++ winBytes t.rtu.win = winBytes s.rtu.win ++ rtuByte i := by
  rcases hi with ⟨b, rfl⟩ | rfl
  · obtain ⟨t, hexec, hnext⟩ := exec_rtuRx_next b hs.baud
    refine ⟨t, hexec, hs.of_rtuNext hnext (hs.lanes.receive _ _ b), ?_⟩
    rw [hnext.reported, hnext.rtu]
    exact rtuReceive_accounts s.lines.baud b hs.minLen hs.lanes
  · obtain ⟨t, hexec, hnext⟩ := exec_rtuTick_next s
    refine ⟨t, hexec, hs.of_rtuNext hnext hs.lanes.elapse, ?_⟩
    rw [hnext.reported, hnext.rtu, rtuByte, List.append_nil]
    exact rtuElapse_accounts s.rtu

/-- A stream completes, and its reports and the window give back the bytes in order. -/
theorem Streaming.runOps_accounts {ops : List Instr} {s : State} (hs : Streaming s)
    (hops : ∀ i ∈ ops, (∃ b, i = .rtuRx b) ∨ i = .rtuTick) :
    ∃ u rs, runOps ops s = some (u, rs) ∧
      rs.flatMap wireBytes ++ winBytes u.rtu.win = winBytes s.rtu.win ++ ops.flatMap rtuByte := by
  induction ops generalizing s with
  | nil => exact ⟨s, [], rfl, by simp⟩
  | cons i is ih =>
    obtain ⟨hi, his⟩ := List.forall_mem_cons.1 hops
    obtain ⟨t, hexec, ht, hfirst⟩ := hs.exec_accounts hi
    obtain ⟨u, rs, hrun, hrest⟩ := ih ht his
    refine ⟨u, t.reported ++ rs, runOps_cons_eq_some.2 ⟨t, rs, hexec, hrun, rfl⟩, ?_⟩
    rw [List.flatMap_append, List.append_assoc, hrest, ← List.append_assoc, hfirst, List.append_assoc, List.flatMap_cons]

/-- The bytes of a stream that feeds `bs` and then lets ticks elapse are `bs`. -/
theorem flatMap_rtuByte_rx_ticks (bs : List Byte) (k : Nat) :
    (bs.map Instr.rtuRx ++ List.replicate k Instr.rtuTick).flatMap rtuByte = bs := by
  have hrx : (bs.map Instr.rtuRx).flatMap rtuByte = bs := by
    rw [List.flatMap_map]
    exact List.flatMap_singleton' bs
  have hticks : (List.replicate k Instr.rtuTick).flatMap rtuByte = [] :=
    List.flatMap_eq_nil_iff.2 fun i hi => List.eq_of_mem_replicate hi ▸ rfl
  rw [List.flatMap_append, hrx, hticks, List.append_nil]

/-- Feeding bytes and letting ticks elapse is a stream. -/
theorem rtuRx_or_rtuTick_of_mem {bs : List Byte} {k : Nat} {i : Instr}
    (hi : i ∈ bs.map Instr.rtuRx ++ List.replicate k Instr.rtuTick) : (∃ b, i = .rtuRx b) ∨ i = .rtuTick := by
  rcases List.mem_append.1 hi with hrx | htick
  · obtain ⟨b, -, rfl⟩ := List.mem_map.1 hrx
    exact .inl ⟨b, rfl⟩
  · exact .inr (List.eq_of_mem_replicate htick)

/-- If the reports and the window account for as many bytes as the frame of a payload has, and the payload is among the `Valid`
reports, the bytes are that frame. -/
theorem eq_frame_of_mem_valid {rs : List Report} {p bs rest : List Byte} (hmem : Report.mk .valid p ∈ rs)
    (haccounts : rs.flatMap wireBytes ++ rest = bs) (hlen : bs.length = (p ++ trailer p).length) :
    bs = p ++ trailer p := by
  have hframe : (p ++ trailer p).Sublist (rs.flatMap wireBytes) :=
    List.sublist_flatten_of_mem (List.mem_map_of_mem (f := wireBytes) hmem)
  exact ((hframe.trans (haccounts ▸ List.sublist_append_left _ _)).eq_of_length hlen.symm).symm

/-! Which operations complete (R310). -/

/-- Only tag kind 3 is no report kind (30_encoding.md R117). -/
theorem reportKind_ofCode_eq_none_iff : ∀ tag : BitVec 2, ReportKind.ofCode tag = none ↔ tag = 3#2 := by decide

/-- Tag kind 3 is refused (30_encoding.md R122). -/
theorem execDecFrame_three (s : State) : execDecFrame 3#2 s = .refused .reservedTag := rfl

/-- An operation that has a meaning completes. -/
theorem exec_next_of_executable {i : Instr} {s : State} (h : Executable i s) : ∃ t, exec i s = .next t := by
  cases i with
  | cmdReserved op b => exact False.elim h
  | decFrame tag =>
    obtain ⟨kind, hkind⟩ := Option.ne_none_iff_exists'.1 (mt (reportKind_ofCode_eq_none_iff tag).1 h)
    exact ⟨_, execDecFrame_of_kind hkind s⟩
  | rtuRx b => exact ⟨_, execRtuRx_eq h⟩
  | rtuSend => exact ⟨_, execRtuSend_of_fits ((payloadFits_iff _ _).2 h)⟩
  | ascSend => exact ⟨_, execAscSend_of_fits ((payloadFits_iff _ _).2 h)⟩
  | _ => exact ⟨_, rfl⟩

/-- An operation that has no meaning is refused, by the name of its reason. -/
theorem exec_refused_of_not_executable {i : Instr} {s : State} (h : ¬Executable i s) : ∃ r, exec i s = .refused r := by
  cases i with
  | cmdReserved op b => exact ⟨.reservedCommand op, rfl⟩
  | decFrame tag =>
    obtain rfl : tag = 3#2 := not_ne_iff.1 h
    exact ⟨.reservedTag, execDecFrame_three s⟩
  | rtuRx b => exact ⟨.baudZero, execRtuRx_baudZero (not_ne_iff.1 h)⟩
  | rtuSend => exact ⟨.payloadTooLong, execRtuSend_of_not_fits (Bool.eq_false_iff.2 (mt (payloadFits_iff _ _).1 h))⟩
  | ascSend => exact ⟨.payloadTooLong, execAscSend_of_not_fits (Bool.eq_false_iff.2 (mt (payloadFits_iff _ _).1 h))⟩
  | _ => exact absurd trivial h

/-! The obligations. -/

/-- Settles O12: an injective map of the 16-bit words is onto; the trailer is the two bytes that close a message. -/
theorem crcTrailerIsUnique : Obligations.CrcTrailerIsUnique := by
  refine ⟨fun b => Finite.injective_iff_bijective.1 (crc16Step_injective b), fun p x y => ?_⟩
  rw [crc16_append_pair_eq_zero_iff, trailer, List.cons.injEq, List.cons.injEq, and_iff_left rfl]
  rfl

/-- Settles O20: the run of ticks on U3, below the count and from the count on. -/
theorem silenceFlushesOnce : Obligations.SilenceFlushesOnce := by
  intro s c hc hpos hwin k
  have hrun := runOps_rtuTick k s
  refine ⟨fun hlt => ?counts, fun hle => ?flushed⟩
  case counts =>
    rw [tickRun_of_lt_count hc hlt] at hrun
    exact hrun
  case flushed =>
    rw [tickRun_of_count_le hc hpos hle, rtuFlush_eq, if_neg hwin] at hrun
    exact hrun

/-- Settles O21, by the cases of the timer: only the last tick of a count is the timeout. -/
theorem tickRefinesTimeout : Obligations.TickRefinesTimeout := by
  intro s
  rcases rtuElapse_cases s.rtu with ⟨-, he⟩ | ⟨c, hc, -, he⟩ | ⟨hone, he⟩
  · exact ⟨_, exec_rtuTick_of_elapse he, .inl ⟨s.rtu, rfl, rfl, rfl⟩⟩
  · exact ⟨_, exec_rtuTick_of_elapse he, .inl ⟨{ s.rtu with timer := some (c - 1#16) }, rfl, by rw [hc]; rfl, rfl⟩⟩
  · rw [rtuFlush_eq] at he
    exact ⟨_, exec_rtuTick_of_elapse he, .inr ⟨by rw [State.tmrArmed, hone]; rfl, rfl⟩⟩

/-- Settles O25: the reports and the window account for the damaged bytes, among which the whole frame has no room. -/
theorem damagedFrameNeverYieldsOriginalPayload : Obligations.DamagedFrameNeverYieldsOriginalPayload := by
  intro s p b k hlegal hwin hbaud hlen hne
  obtain ⟨-, -, hmin, -⟩ := (legal_iff _).1 hlegal
  have hs : Streaming s := ⟨hbaud, hmin, hwin ▸ lanesHold_nil⟩
  obtain ⟨u, rs, hrun, haccounts⟩ := hs.runOps_accounts (ops := b.map .rtuRx ++ List.replicate k .rtuTick)
    fun _ => rtuRx_or_rtuTick_of_mem
  rw [hwin, winBytes_nil, List.nil_append, flatMap_rtuByte_rx_ticks] at haccounts
  exact ⟨u, rs, hrun, fun hmem => hne (eq_frame_of_mem_valid hmem haccounts hlen)⟩

/-- Settles O57, operation by operation: one that has a meaning completes, every other one is refused. -/
theorem executableCompletes : Obligations.ExecutableCompletes :=
  fun _ _ => ⟨exec_next_of_executable, exec_refused_of_not_executable⟩

end Sys2Proof.Machine
end
